-- ==== Sys2Proof/Word.lean ====
section
/-!
DEFINITION. The bit-vector widths of the machine (00_scope R6, R7): names only, no arithmetic.
-/

namespace Sys2Proof

/-- A byte of memory or of a general register. -/
abbrev Byte := BitVec 8

/-- A 16-bit word: an instruction, the program counter, the index register, a stack entry. -/
abbrev Word := BitVec 16

/-- A 4-bit instruction field (30_encoding R91: `x`, `y`, `n`). -/
abbrev Nibble := BitVec 4

/-- A 12-bit instruction field (30_encoding R91: `nnn`). -/
abbrev Addr12 := BitVec 12

end Sys2Proof
end

