-- ==== Sys2Proof/Config.lean ====
section
/-!
DEFINITION. The constants of 00_scope R6, and the open parameters as free values: FONT, the choice of KEY_PICK
and the host's inputs (92_eei_decisions, "Open parameters, in one place").
-/

namespace Sys2Proof

/-- A keypad snapshot: 16 booleans, true for a pressed key (10_state R37). -/
abbrev Keys := Vector Bool 16

namespace Config

/-- ADDR_MAX: the highest valid byte address (00_scope R6). -/
abbrev addrMax : Nat := 0xFFF

/-- FONT_BASE: the first byte of the font table (00_scope R6, 10_state R22). -/
abbrev fontBase : Nat := 0x050

/-- GLYPH_LEN: bytes per glyph (00_scope R6). -/
abbrev glyphLen : Nat := 5

/-- PROG_BASE: the load address of the program and the entry point (00_scope R6, 70_reset_and_hazards R283). -/
abbrev progBase : Nat := 0x200

/-- PROG_MAX: the largest program, in bytes (00_scope R6, 70_reset_and_hazards R282). -/
abbrev progMax : Nat := 3584

/-- TIMER_INTERVAL_US: the period of the timer decrement (00_scope R6). -/
abbrev timerInterval : Nat := 16667

/-- FONT: the 80 bytes of the font table (00_scope R6, 10_state R23). Free value: the source gives no byte of it
(91_not_in_source N2), so nothing here constrains it and a proof holds for every font (decision D18). DESIGN CHOICE, safe, log entry 3. -/
opaque font : Vector Byte 80

/-- The default of FONT for simulation, the table of 10_state R23, which the spec has from general knowledge. PRESUMED, safe,
log entry 3: no definition of the machine reads it, so no proof about the machine can rest on it. -/
def defaultFont : Vector Byte 80 := #v[
  0xF0, 0x90, 0x90, 0x90, 0xF0,  0x20, 0x60, 0x20, 0x20, 0x70,
  0xF0, 0x10, 0xF0, 0x80, 0xF0,  0xF0, 0x10, 0xF0, 0x10, 0xF0,
  0x90, 0x90, 0xF0, 0x10, 0x10,  0xF0, 0x80, 0xF0, 0x10, 0xF0,
  0xF0, 0x80, 0xF0, 0x90, 0xF0,  0xF0, 0x10, 0x20, 0x40, 0x40,
  0xF0, 0x90, 0xF0, 0x90, 0xF0,  0xF0, 0x90, 0xF0, 0x10, 0xF0,
  0xF0, 0x90, 0xF0, 0x90, 0x90,  0xE0, 0x90, 0xE0, 0x90, 0xE0,
  0xF0, 0x80, 0x80, 0x80, 0xF0,  0xE0, 0x90, 0x90, 0x90, 0xE0,
  0xF0, 0x80, 0xF0, 0x80, 0xF0,  0xF0, 0x80, 0xF0, 0x80, 0x80]

/-- Free value: the `elapsed_us` the host gives to step number `n` (40_step_cycle R111; U16: any value). -/
opaque elapsedUs (n : Nat) : BitVec 32

/-- Free value: the `KEY_NOW` the host gives to step number `n` (40_step_cycle R111). -/
opaque keyNow (n : Nat) : Keys

/-- Free value: the `render_just_happened` the host gives to step number `n` (40_step_cycle R111). -/
opaque renderJustHappened (n : Nat) : Bool

/-- Free value: the random byte `rnd` of step number `n` (10_state R40; U5: any value). -/
opaque rnd (n : Nat) : Byte

/-- Free value behind KEY_PICK (45_keypad_timer R222): which of several released keys Fx0A reports, as a
function of the set of released keys. `keyPick` in Machine/Operands.lean holds it to a member of the set. -/
opaque keyHint (released : Keys) : Fin 16

end Config

end Sys2Proof
end

