-- ==== Sys2Proof/Syntax.lean ====
section
/-!
DEFINITION. The closed set of 34 instructions (30_encoding R96), one constructor per row of
spec/opcode_table.json, in the table's order. The fields carry the widths of 30_encoding R91, so that no
register number, immediate or address outside its field can be written.
-/

namespace Sys2Proof

/-- One instruction. The normative name of each is its encoding pattern (30_encoding R101). -/
inductive Instr where
  /-- 00E0: clear the display (R200). -/
  | cls
  /-- 00EE: return from subroutine (R131). -/
  | ret
  /-- 1nnn: jump (R132). -/
  | jp (nnn : Addr12)
  /-- 2nnn: call (R133). -/
  | call (nnn : Addr12)
  /-- 3xnn: skip if Vx = nn (R134). -/
  | seImm (x : Nibble) (nn : Byte)
  /-- 4xnn: skip if Vx differs from nn (R135). -/
  | sneImm (x : Nibble) (nn : Byte)
  /-- 5xy0: skip if Vx = Vy (R136). -/
  | seReg (x y : Nibble)
  /-- 6xnn: Vx = nn (R151). -/
  | ldImm (x : Nibble) (nn : Byte)
  /-- 7xnn: Vx = Vx + nn, wrapping, no flag (R152). -/
  | addImm (x : Nibble) (nn : Byte)
  /-- 8xy0: Vx = Vy (R153). -/
  | ldReg (x y : Nibble)
  /-- 8xy1: bitwise or (R154). -/
  | or (x y : Nibble)
  /-- 8xy2: bitwise and (R155). -/
  | and (x y : Nibble)
  /-- 8xy3: bitwise exclusive or (R156). -/
  | xor (x y : Nibble)
  /-- 8xy4: Vx = Vx + Vy, VF = carry (R157). -/
  | addReg (x y : Nibble)
  /-- 8xy5: Vx = Vx - Vy, VF = not borrow (R158). -/
  | subReg (x y : Nibble)
  /-- 8xy6: shift right by one, VF = bit shifted out (R159). -/
  | shr (x y : Nibble)
  /-- 8xy7: Vx = Vy - Vx, VF = not borrow (R160). -/
  | subn (x y : Nibble)
  /-- 8xyE: shift left by one, VF = bit shifted out (R161). -/
  | shl (x y : Nibble)
  /-- 9xy0: skip if Vx differs from Vy (R137). -/
  | sneReg (x y : Nibble)
  /-- Annn: I = nnn (R181). -/
  | ldI (nnn : Addr12)
  /-- Bnnn: pc = nnn + V0 (R138). -/
  | jpV0 (nnn : Addr12)
  /-- Cxnn: Vx = random byte AND nn (R162). -/
  | rnd (x : Nibble) (nn : Byte)
  /-- Dxyn: sprite draw (R201). -/
  | drw (x y n : Nibble)
  /-- Ex9E: skip if key Vx is pressed (R216). -/
  | skp (x : Nibble)
  /-- ExA1: skip if key Vx is not pressed (R217). -/
  | sknp (x : Nibble)
  /-- Fx07: Vx = delay timer (R219). -/
  | ldVxDT (x : Nibble)
  /-- Fx0A: wait for a key release (R218). -/
  | ldVxK (x : Nibble)
  /-- Fx15: delay timer = Vx (R220). -/
  | ldDT (x : Nibble)
  /-- Fx18: sound timer = Vx (R221). -/
  | ldST (x : Nibble)
  /-- Fx1E: I = I + Vx (R182). -/
  | addI (x : Nibble)
  /-- Fx29: I = address of glyph Vx (R183). -/
  | ldF (x : Nibble)
  /-- Fx33: three BCD digits of Vx to memory at I (R184). -/
  | ldB (x : Nibble)
  /-- Fx55: V0 to Vx to memory at I (R185). -/
  | storeRegs (x : Nibble)
  /-- Fx65: V0 to Vx from memory at I (R186). -/
  | loadRegs (x : Nibble)
deriving DecidableEq, Repr

end Sys2Proof
end

