-- ==== Sys2Proof/WellFormed.lean ====
section
/-!
DEFINITION. What is well formed: an instruction whose operands fit the fields of 30_encoding R91, and a
program buffer that fits memory (70_reset_and_hazards R282). The types of Syntax.lean already hold the
first check (`Instr.wellFormed_all` in Laws/Encoding.lean); the second is a real precondition of creation.
-/

namespace Sys2Proof

/-- An operand as a value and the width of the field that must hold it. -/
structure Operand where
  value : Nat
  width : Nat
deriving DecidableEq, Repr

/-- The value fits the field (30_encoding R91, R93: unsigned, unscaled). -/
def Operand.fits (o : Operand) : Bool := o.value < 2 ^ o.width

/-- The operand of a bit-vector field. -/
def Operand.ofField {w : Nat} (v : BitVec w) : Operand := ⟨v.toNat, w⟩

/-- The operands of an instruction, in the order of its encoding (30_encoding R92). -/
def Instr.operands : Instr → List Operand
  | .cls | .ret => []
  | .jp nnn | .call nnn | .ldI nnn | .jpV0 nnn => [.ofField nnn]
  | .seImm x nn | .sneImm x nn | .ldImm x nn | .addImm x nn | .rnd x nn => [.ofField x, .ofField nn]
  | .seReg x y | .sneReg x y | .ldReg x y | .or x y | .and x y | .xor x y | .addReg x y | .subReg x y
  | .shr x y | .subn x y | .shl x y => [.ofField x, .ofField y]
  | .drw x y n => [.ofField x, .ofField y, .ofField n]
  | .skp x | .sknp x | .ldVxDT x | .ldVxK x | .ldDT x | .ldST x | .addI x | .ldF x | .ldB x | .storeRegs x
  | .loadRegs x => [.ofField x]

/-- Every operand fits its field. DESIGN CHOICE, safe, log entry 10. -/
def Instr.wellFormed (i : Instr) : Bool := i.operands.all Operand.fits

/-- A program buffer that creation accepts: at most PROG_MAX bytes (70_reset_and_hazards R282). The empty
program and programs of odd length are accepted. -/
def programFits (program : List Byte) : Bool := program.length ≤ Config.progMax

end Sys2Proof
end

