-- ==== Sys2Proof/Decode.lean ====
section
/-!
DEFINITION. Decoding (30_encoding R90 to R97): total on words and on byte lists, refusing by name; the
encoder, from the same formats (R92); and the opcode map of R96 as rows of mask and match.
-/

namespace Sys2Proof

/-- Why bytes are no instruction. -/
inductive DecodeError where
  /-- Fewer than the two bytes of an instruction (30_encoding R90). -/
  | truncated
  /-- A word that matches no row of 30_encoding R96 (R97). -/
  | unrecognized (word : Word)
deriving DecidableEq, Repr

/-- What decoding answers: a value, or the refusal by name. -/
inductive Decoded (α : Type) where
  | ok (a : α)
  | refused (e : DecodeError)
deriving DecidableEq, Repr

/-! ## Fields (R91) -/

/-- `op`: bits 15:12, the opcode family. -/
def opField (w : Word) : Nibble := w.extractLsb' 12 4

/-- `x`: bits 11:8. -/
def xField (w : Word) : Nibble := w.extractLsb' 8 4

/-- `y`: bits 7:4. -/
def yField (w : Word) : Nibble := w.extractLsb' 4 4

/-- `n`: bits 3:0. -/
def nField (w : Word) : Nibble := w.extractLsb' 0 4

/-- `nn`: bits 7:0. -/
def nnField (w : Word) : Byte := w.extractLsb' 0 8

/-- `nnn`: bits 11:0. -/
def nnnField (w : Word) : Addr12 := w.extractLsb' 0 12

/-! ## The decision procedure of R94 -/

/-- Family 0: the two whole words (R95). -/
def decodeFamily0 (w : Word) : Decoded Instr :=
  if w = 0x00E0#16 then .ok .cls
  else if w = 0x00EE#16 then .ok .ret
  else .refused (.unrecognized w)

/-- Families 5 and 9 take only `n = 0` (R95). -/
def decodeIfZero (n : Nibble) (i : Instr) (w : Word) : Decoded Instr :=
  if n = 0 then .ok i else .refused (.unrecognized w)

/-- Family 8, by the sub-opcode `n`. -/
def decodeFamily8 (x y n : Nibble) (w : Word) : Decoded Instr :=
  if n = 0x0 then .ok (.ldReg x y)
  else if n = 0x1 then .ok (.or x y)
  else if n = 0x2 then .ok (.and x y)
  else if n = 0x3 then .ok (.xor x y)
  else if n = 0x4 then .ok (.addReg x y)
  else if n = 0x5 then .ok (.subReg x y)
  else if n = 0x6 then .ok (.shr x y)
  else if n = 0x7 then .ok (.subn x y)
  else if n = 0xE then .ok (.shl x y)
  else .refused (.unrecognized w)

/-- Family E, by the sub-opcode `nn`. -/
def decodeFamilyE (x : Nibble) (nn : Byte) (w : Word) : Decoded Instr :=
  if nn = 0x9E then .ok (.skp x)
  else if nn = 0xA1 then .ok (.sknp x)
  else .refused (.unrecognized w)

/-- Family F, by the sub-opcode `nn`. -/
def decodeFamilyF (x : Nibble) (nn : Byte) (w : Word) : Decoded Instr :=
  if nn = 0x07 then .ok (.ldVxDT x)
  else if nn = 0x0A then .ok (.ldVxK x)
  else if nn = 0x15 then .ok (.ldDT x)
  else if nn = 0x18 then .ok (.ldST x)
  else if nn = 0x1E then .ok (.addI x)
  else if nn = 0x29 then .ok (.ldF x)
  else if nn = 0x33 then .ok (.ldB x)
  else if nn = 0x55 then .ok (.storeRegs x)
  else if nn = 0x65 then .ok (.loadRegs x)
  else .refused (.unrecognized w)

/-- The instruction a 16-bit word selects, or its refusal (R94). -/
def decodeWord (w : Word) : Decoded Instr :=
  let op := opField w
  let x := xField w
  let y := yField w
  let n := nField w
  let nn := nnField w
  let nnn := nnnField w
  if op = 0x0 then decodeFamily0 w
  else if op = 0x1 then .ok (.jp nnn)
  else if op = 0x2 then .ok (.call nnn)
  else if op = 0x3 then .ok (.seImm x nn)
  else if op = 0x4 then .ok (.sneImm x nn)
  else if op = 0x5 then decodeIfZero n (.seReg x y) w
  else if op = 0x6 then .ok (.ldImm x nn)
  else if op = 0x7 then .ok (.addImm x nn)
  else if op = 0x8 then decodeFamily8 x y n w
  else if op = 0x9 then decodeIfZero n (.sneReg x y) w
  else if op = 0xA then .ok (.ldI nnn)
  else if op = 0xB then .ok (.jpV0 nnn)
  else if op = 0xC then .ok (.rnd x nn)
  else if op = 0xD then .ok (.drw x y n)
  else if op = 0xE then decodeFamilyE x nn w
  else decodeFamilyF x nn w

/-! ## Bytes and words (R66: big-endian, the byte at the lower address is bits 15:8) -/

/-- The word of two fetched bytes. -/
def wordOfBytes (hi lo : Byte) : Word := hi ++ lo

/-- The byte of a word that lies at the lower address. -/
def highByte (w : Word) : Byte := w.extractLsb' 8 8

/-- The byte of a word that lies at the higher address. -/
def lowByte (w : Word) : Byte := w.extractLsb' 0 8

/-- Decode the instruction at the front of a byte list; answers it with the bytes that follow. -/
def decodeBytes : List Byte → Decoded (Instr × List Byte)
  | hi :: lo :: rest =>
    match decodeWord (wordOfBytes hi lo) with
    | .ok i => .ok (i, rest)
    | .refused e => .refused e
  | _ => .refused .truncated

/-- The word whose bits 0 to `nbits - 1` are those of `w` and whose other bits are 0, in the bit numbering
of spec/opcode_table.json (every row has one 16-bit word). -/
def tableWord (nbits w : Nat) : Word := BitVec.ofNat 16 (w % 2 ^ nbits)

/-- The instruction the decoder reads from a row of spec/opcode_table.json laid out in memory order. -/
def decodeTableWord (nbits w : Nat) : Option Instr :=
  match decodeBytes [highByte (tableWord nbits w), lowByte (tableWord nbits w)] with
  | .ok (i, _) => some i
  | .refused _ => none

/-! ## The encoder (R92) -/

/-- Format NNN. -/
def formatNNN (op : Nibble) (nnn : Addr12) : Word := op ++ nnn

/-- Format XNN, and format X with `nn` the sub-opcode. -/
def formatXNN (op x : Nibble) (nn : Byte) : Word := op ++ x ++ nn

/-- Format XYN, and format XY with `n` the sub-opcode. -/
def formatXYN (op x y n : Nibble) : Word := op ++ x ++ y ++ n

/-- The word of an instruction (R92, R96). -/
def encode : Instr → Word
  | .cls => 0x00E0
  | .ret => 0x00EE
  | .jp nnn => formatNNN 0x1 nnn
  | .call nnn => formatNNN 0x2 nnn
  | .seImm x nn => formatXNN 0x3 x nn
  | .sneImm x nn => formatXNN 0x4 x nn
  | .seReg x y => formatXYN 0x5 x y 0x0
  | .ldImm x nn => formatXNN 0x6 x nn
  | .addImm x nn => formatXNN 0x7 x nn
  | .ldReg x y => formatXYN 0x8 x y 0x0
  | .or x y => formatXYN 0x8 x y 0x1
  | .and x y => formatXYN 0x8 x y 0x2
  | .xor x y => formatXYN 0x8 x y 0x3
  | .addReg x y => formatXYN 0x8 x y 0x4
  | .subReg x y => formatXYN 0x8 x y 0x5
  | .shr x y => formatXYN 0x8 x y 0x6
  | .subn x y => formatXYN 0x8 x y 0x7
  | .shl x y => formatXYN 0x8 x y 0xE
  | .sneReg x y => formatXYN 0x9 x y 0x0
  | .ldI nnn => formatNNN 0xA nnn
  | .jpV0 nnn => formatNNN 0xB nnn
  | .rnd x nn => formatXNN 0xC x nn
  | .drw x y n => formatXYN 0xD x y n
  | .skp x => formatXNN 0xE x 0x9E
  | .sknp x => formatXNN 0xE x 0xA1
  | .ldVxDT x => formatXNN 0xF x 0x07
  | .ldVxK x => formatXNN 0xF x 0x0A
  | .ldDT x => formatXNN 0xF x 0x15
  | .ldST x => formatXNN 0xF x 0x18
  | .addI x => formatXNN 0xF x 0x1E
  | .ldF x => formatXNN 0xF x 0x29
  | .ldB x => formatXNN 0xF x 0x33
  | .storeRegs x => formatXNN 0xF x 0x55
  | .loadRegs x => formatXNN 0xF x 0x65

/-- The two bytes of an instruction in memory order (R66). -/
def encodeBytes (i : Instr) : List Byte := [highByte (encode i), lowByte (encode i)]

/-! ## The opcode map (R96) -/

/-- A row of the opcode map: a word `w` selects the row when `w AND mask = value`. -/
structure OpcodeRow where
  pattern : String
  mask : Word
  value : Word
deriving DecidableEq, Repr

/-- The word selects the row. -/
def OpcodeRow.selects (r : OpcodeRow) (w : Word) : Bool := w &&& r.mask = r.value

/-- The 34 rows of R96, in its order. -/
def opcodeMap : List OpcodeRow := [
  ⟨"00E0", 0xFFFF, 0x00E0⟩, ⟨"00EE", 0xFFFF, 0x00EE⟩, ⟨"1nnn", 0xF000, 0x1000⟩, ⟨"2nnn", 0xF000, 0x2000⟩,
  ⟨"3xnn", 0xF000, 0x3000⟩, ⟨"4xnn", 0xF000, 0x4000⟩, ⟨"5xy0", 0xF00F, 0x5000⟩, ⟨"9xy0", 0xF00F, 0x9000⟩,
  ⟨"6xnn", 0xF000, 0x6000⟩, ⟨"7xnn", 0xF000, 0x7000⟩] ++ [
  ⟨"8xy0", 0xF00F, 0x8000⟩, ⟨"8xy1", 0xF00F, 0x8001⟩, ⟨"8xy2", 0xF00F, 0x8002⟩, ⟨"8xy3", 0xF00F, 0x8003⟩,
  ⟨"8xy4", 0xF00F, 0x8004⟩, ⟨"8xy5", 0xF00F, 0x8005⟩, ⟨"8xy6", 0xF00F, 0x8006⟩, ⟨"8xy7", 0xF00F, 0x8007⟩,
  ⟨"8xyE", 0xF00F, 0x800E⟩, ⟨"Annn", 0xF000, 0xA000⟩, ⟨"Bnnn", 0xF000, 0xB000⟩, ⟨"Cxnn", 0xF000, 0xC000⟩,
  ⟨"Dxyn", 0xF000, 0xD000⟩] ++ [
  ⟨"Ex9E", 0xF0FF, 0xE09E⟩, ⟨"ExA1", 0xF0FF, 0xE0A1⟩, ⟨"Fx07", 0xF0FF, 0xF007⟩, ⟨"Fx15", 0xF0FF, 0xF015⟩,
  ⟨"Fx18", 0xF0FF, 0xF018⟩, ⟨"Fx1E", 0xF0FF, 0xF01E⟩, ⟨"Fx0A", 0xF0FF, 0xF00A⟩, ⟨"Fx29", 0xF0FF, 0xF029⟩,
  ⟨"Fx33", 0xF0FF, 0xF033⟩, ⟨"Fx55", 0xF0FF, 0xF055⟩, ⟨"Fx65", 0xF0FF, 0xF065⟩]

/-- The normative name of an instruction: the encoding pattern of its row (R101). -/
def Instr.pattern : Instr → String
  | .cls => "00E0"
  | .ret => "00EE"
  | .jp _ => "1nnn"
  | .call _ => "2nnn"
  | .seImm _ _ => "3xnn"
  | .sneImm _ _ => "4xnn"
  | .seReg _ _ => "5xy0"
  | .ldImm _ _ => "6xnn"
  | .addImm _ _ => "7xnn"
  | .ldReg _ _ => "8xy0"
  | .or _ _ => "8xy1"
  | .and _ _ => "8xy2"
  | .xor _ _ => "8xy3"
  | .addReg _ _ => "8xy4"
  | .subReg _ _ => "8xy5"
  | .shr _ _ => "8xy6"
  | .subn _ _ => "8xy7"
  | .shl _ _ => "8xyE"
  | .sneReg _ _ => "9xy0"
  | .ldI _ => "Annn"
  | .jpV0 _ => "Bnnn"
  | .rnd _ _ => "Cxnn"
  | .drw _ _ _ => "Dxyn"
  | .skp _ => "Ex9E"
  | .sknp _ => "ExA1"
  | .ldVxDT _ => "Fx07"
  | .ldVxK _ => "Fx0A"
  | .ldDT _ => "Fx15"
  | .ldST _ => "Fx18"
  | .addI _ => "Fx1E"
  | .ldF _ => "Fx29"
  | .ldB _ => "Fx33"
  | .storeRegs _ => "Fx55"
  | .loadRegs _ => "Fx65"

end Sys2Proof
end

