-- ==== Sys2Proof/Machine/State.lean ====
section
/-!
DEFINITION. The complete state of the machine (10_state R20), the inputs of a step (40_step_cycle R111),
the reasons a run can be stopped, and the state after creation (10_state R41).
-/

namespace Sys2Proof.Machine

/-- The six fatal conditions (60_exceptions R240). The spec says what the machine does when it raises one
(R246 to R248: a record is written and the machine is halted for good), so raising one is a NEXT state with the
condition in `State.faultCause`; `step` answers `.fault` on no state. `State.verdict` (Safety.lean) turns a halted state into a
fault of this type, because a halted state is never the successful end of a program (R248). DEDUCED, safe, log entry 8. -/
inductive Fault where
  /-- Code 1: raised by decode on a word that matches no row of the opcode map (R242). Safe: the source names it. -/
  | unrecognizedInstruction
  /-- Code 2: raised by fetch when `pc > 0xFFE` (R241). Safe: the source names it. -/
  | fetchOutOfBounds
  /-- Code 3: raised by 2nnn when 64 entries are in use (R243). Safe: the source names it. -/
  | stackOverflow
  /-- Code 4: raised by 00EE when no entry is in use (R244). Safe: the source names it. -/
  | stackUnderflow
  /-- Code 5: raised by an executing Dxyn, by Fx33, Fx55 and Fx65 whose highest data address is above 0xFFF
  (R245, decision D7 of the spec). Safe: no claim of a successful end holds of a run that raises it. -/
  | dataAddressOutOfBounds
  /-- Code 6: raised by Ex9E and ExA1 when `Vx > 15` (R249, decision D8 of the spec). Safe, as code 5. -/
  | keyIndexOutOfRange
deriving DecidableEq, Repr

/-- The code of a fatal condition in FAULT_CAUSE (60_exceptions R240). -/
def Fault.code : Fault → BitVec 3
  | .unrecognizedInstruction => 1
  | .fetchOutOfBounds => 2
  | .stackOverflow => 3
  | .stackUnderflow => 4
  | .dataAddressOutOfBounds => 5
  | .keyIndexOutOfRange => 6

/-- Why something is refused. No step refuses: every instruction has its meaning. -/
inductive Refusal where
  /-- Raised by an arm of `exec` that gives an instruction no meaning; no arm raises it. Safe. -/
  | notModelled (mnemonic : String)
  /-- Raised by `create` for a program of more than 3584 bytes: creation is not defined for it and no
  machine exists (70_reset_and_hazards R282, decision D19). Safe. -/
  | programTooLong
deriving DecidableEq, Repr

/-- Memory: the bytes that differ from their value after creation, as (address, byte) pairs with rising
addresses. Operations and the canonical form are in Machine/Ops.lean. -/
abbrev Memory := List Host.Cell

/-- The sixteen general registers (10_state R25). -/
abbrev RegFile := Vector Byte 16

/-- The display: 32 rows of 64 pixels, row 0 and column 0 first, true for a set pixel (10_state R36). -/
abbrev Display := Vector (Vector Bool 64) 32

/-- The four inputs of one step (40_step_cycle R111). -/
structure Inputs where
  /-- `elapsed_us`: microseconds to add to the accumulator. -/
  elapsedUs : BitVec 32
  /-- `KEY_NOW`: the keys pressed now. -/
  keyNow : Keys
  /-- `render_just_happened`. -/
  renderJustHappened : Bool
  /-- `rnd`: the byte `RndByte()` returns in this step. -/
  rnd : Byte
deriving DecidableEq, Repr

/-- The state of the machine (10_state R20), and two fields of the model's own that stand for the host. -/
structure State where
  /-- `MEM`: 4096 bytes (10_state R21). -/
  mem : Memory
  /-- `V[0..15]` (10_state R25). -/
  v : RegFile
  /-- `pc` (10_state R27). -/
  pc : Word
  /-- `I`, 16 bits stored, 12 bits logical (10_state R30). -/
  index : Word
  /-- `STACK[0..63]` (10_state R31). -/
  stack : Vector Word 64
  /-- `SP`: the number of stack entries in use, 0 to 64 (10_state R31). -/
  sp : Fin 65
  /-- `DT`: the delay timer (10_state R34). -/
  dt : Byte
  /-- `ST`: the sound timer (10_state R34). -/
  st : Byte
  /-- `ACC`: the elapsed-microseconds accumulator (10_state R35). -/
  acc : BitVec 64
  /-- `DISP[0..31][0..63]` (10_state R36). -/
  disp : Display
  /-- `KEY_PREV[0..15]` (10_state R37). -/
  keyPrev : Keys
  /-- `QUIRK`: never written after creation (10_state R33). -/
  quirk : Bool
  /-- `HALTED` (10_state R38). -/
  halted : Bool
  /-- `FAULT_CAUSE`: `none` is code 0 (10_state R38, 60_exceptions R240). DESIGN CHOICE, safe, log entry 13. -/
  faultCause : Option Fault
  /-- `FAULT_ADDR` (10_state R38). -/
  faultAddr : Word
  /-- `FAULT_INFO` (10_state R38). -/
  faultInfo : Word
  /-- The model's own: what the host supplies to the coming steps, oldest first. DESIGN CHOICE, safe, log entry 1. -/
  inputs : List Inputs
  /-- The model's own: the number of steps taken, the argument of the free inputs of Config. DESIGN CHOICE, safe, log entry 1. -/
  stepNo : Nat
deriving DecidableEq, Repr

/-- FAULT_CAUSE as the three bits the host reads: 0 while no fatal condition was raised (60_exceptions R240). -/
def State.faultCode (s : State) : BitVec 3 :=
  match s.faultCause with
  | none => 0
  | some f => f.code

/-- The state after creation from the empty program (10_state R41, 70_reset_and_hazards R281). A program is loaded by
`create` (Machine/Creation.lean). Zeros the source does not state are the spec's own choice D3 and D4 (log entry 4);
`quirk` is an argument of creation, taken false here: DESIGN CHOICE, unsafe, log entry 5. -/
def State.reset : State where
  mem := []
  v := Vector.replicate 16 0
  pc := 0x200
  index := 0
  stack := Vector.replicate 64 0
  sp := 0
  dt := 0
  st := 0
  acc := 0
  disp := Vector.replicate 32 (Vector.replicate 64 false)
  keyPrev := Vector.replicate 16 false
  quirk := false
  halted := false
  faultCause := none
  faultAddr := 0
  faultInfo := 0
  inputs := []
  stepNo := 0

end Sys2Proof.Machine
end

