-- ==== Sys2Proof/Machine/Ops.lean ====
section
/-!
DEFINITION. The named operations over memory, registers, the call stack, the display and the program
counter, and entering the halted state (60_exceptions R246). Every meaning is written over these.
-/

namespace Sys2Proof.Machine

/-! ## Memory (10_state R21 to R24, 20_memory R60 to R62) -/

/-- What an address no store has changed reads as: FONT in 0x050 to 0x09F, 0 elsewhere (10_state R22, R24, R41). -/
def initialByte (a : Nat) : Byte :=
  if h : Config.fontBase ≤ a ∧ a < Config.fontBase + 80 then Config.font[a - Config.fontBase] else 0

/-- `MemRead(a, 1)`. The spec defines it for `a ≤ 0xFFF` only; every caller checks its addresses first (R62, R70).
DESIGN CHOICE, safe, log entry 9. -/
def Memory.read : Memory → Nat → Byte
  | [], a => initialByte a
  | (k, b) :: m, a => if a = k then b else Memory.read m a

/-- Place a listed byte, keeping the addresses rising. -/
def Memory.insert (m : Memory) (a : Nat) (b : Byte) : Memory :=
  match m with
  | [] => [(a, b)]
  | (k, c) :: m =>
    if a < k then (a, b) :: (k, c) :: m
    else if a = k then (a, b) :: m
    else (k, c) :: Memory.insert m a b

/-- Unlist an address. -/
def Memory.erase (m : Memory) (a : Nat) : Memory := m.filter fun c => c.1 != a

/-- `MemWrite(a, 1, b)`: a byte equal to what an unlisted address reads as is not listed. -/
def Memory.write (m : Memory) (a : Nat) (b : Byte) : Memory :=
  if b = initialByte a then m.erase a else m.insert a b

/-- Write bytes at `a`, `a + 1` and so on, in this order. -/
def Memory.writeBytes (m : Memory) (a : Nat) : List Byte → Memory
  | [] => m
  | b :: bs => Memory.writeBytes (m.write a b) (a + 1) bs

/-- Every listed address is above `lo`, addresses rise, lie in memory, and no byte is the unlisted one. -/
def Memory.wfAbove (lo : Option Nat) : Memory → Bool
  | [] => true
  | (k, b) :: m =>
    (match lo with | none => true | some l => decide (l < k)) &&
      decide (k ≤ Config.addrMax) && decide (b ≠ initialByte k) && Memory.wfAbove (some k) m

/-- The canonical form of memory: equal memories are equal data. DESIGN CHOICE, safe, log entry 15. -/
def Memory.wf (m : Memory) : Bool := Memory.wfAbove none m

/-! ## General registers (10_state R25) -/

/-- Read `V[x]`. -/
def State.reg (s : State) (x : Nibble) : Byte := s.v[x.toNat]'x.isLt

/-- Write `V[x]`. -/
def State.setReg (s : State) (x : Nibble) (b : Byte) : State := { s with v := s.v.set x.toNat b x.isLt }

/-- Write VF, which is `V[15]` (10_state R26). -/
def State.setVF (s : State) (b : Byte) : State := s.setReg 0xF b

/-! ## Writing one whole piece of state -/

/-- `I <- v`. -/
def State.setIndex (s : State) (v : Word) : State := { s with index := v }

/-- Replace memory. -/
def State.setMem (s : State) (m : Memory) : State := { s with mem := m }

/-- Replace the general registers. -/
def State.setRegs (s : State) (v : RegFile) : State := { s with v := v }

/-- Replace the display. -/
def State.setDisp (s : State) (d : Display) : State := { s with disp := d }

/-- `DT <- b`. -/
def State.setDT (s : State) (b : Byte) : State := { s with dt := b }

/-- `ST <- b`. -/
def State.setST (s : State) (b : Byte) : State := { s with st := b }

/-! ## Program counter (10_state R27 to R29). In execute `pc` is `a + 2` (40_step_cycle R116) -/

/-- `a`: the address of the instruction being executed. -/
def State.instrAddr (s : State) : Word := s.pc - 2

/-- `pc <- v`. -/
def State.jump (s : State) (v : Word) : State := { s with pc := v }

/-- A skip: `pc <- pc + 2` (41_flow R130). -/
def State.skip (s : State) : State := { s with pc := s.pc + 2 }

/-- Skip when the condition holds. -/
def State.skipIf (s : State) (c : Bool) : State := if c then s.skip else s

/-- Block: `pc <- pc - 2`, so that the next step fetches the same instruction (40_step_cycle R119). -/
def State.rewind (s : State) : State := { s with pc := s.instrAddr }

/-! ## Fatal conditions (60_exceptions R246) -/

/-- Raise `f` for the instruction at address `a`: the five assignments of R246 and nothing else. -/
def State.raiseAt (s : State) (f : Fault) (a info : Word) : State :=
  { s with pc := a, halted := true, faultCause := some f, faultAddr := a, faultInfo := info }

/-- Raise `f` from the execute phase: the address is that of the instruction being executed. -/
def State.raise (s : State) (f : Fault) (info : Word) : State := s.raiseAt f s.instrAddr info

/-- The bounds check of 20_memory R70: `k` runs only when the highest address used is in memory. -/
def State.withDataBound (s : State) (highest : Nat) (k : State) : State :=
  if highest > Config.addrMax then s.raise .dataAddressOutOfBounds (BitVec.ofNat 16 highest) else k

/-- The key index check of 45_keypad_timer R216: `k` runs on an index 0 to 15. -/
def State.withKeyIndex (s : State) (index : Byte) (k : Fin 16 → State) : State :=
  if h : index.toNat < 16 then k ⟨index.toNat, h⟩ else s.raise .keyIndexOutOfRange (index.setWidth 16)

/-! ## Call stack (10_state R31, R32) -/

/-- `push(v)`, then `k`; `ins` is the instruction word for the fault record. -/
def State.push (s : State) (value ins : Word) (k : State → State) : State :=
  if h : s.sp.val < 64 then
    k { s with stack := s.stack.set s.sp.val value h, sp := ⟨s.sp.val + 1, Nat.succ_lt_succ h⟩ }
  else s.raise .stackOverflow ins

/-- `pop()`, then `k` on the popped entry; `ins` is the instruction word for the fault record. -/
def State.pop (s : State) (ins : Word) (k : Word → State → State) : State :=
  if h : 0 < s.sp.val then
    k (s.stack[s.sp.val - 1]'(by have := s.sp.isLt; omega))
      { s with sp := ⟨s.sp.val - 1, by have := s.sp.isLt; omega⟩ }
  else s.raise .stackUnderflow ins

/-! ## Display (10_state R36) -/

/-- `DISP[r][c]`; false outside the 32 rows and 64 columns. -/
def Display.get (d : Display) (r c : Nat) : Bool := if h : r < 32 ∧ c < 64 then (d[r]'h.1)[c]'h.2 else false

/-- `DISP[r][c] <- not DISP[r][c]`; nothing outside the 32 rows and 64 columns. -/
def Display.flip (d : Display) (r c : Nat) : Display :=
  if h : r < 32 ∧ c < 64 then d.set r ((d[r]'h.1).set c (!(d[r]'h.1)[c]'h.2) h.2) h.1 else d

/-- All 2048 pixels false (44_display R200). -/
def Display.blank : Display := Vector.replicate 32 (Vector.replicate 64 false)

/-- Pixel `(r, c)` of the display of a state. -/
def State.pixel (s : State) (r c : Nat) : Bool := Display.get s.disp r c

end Sys2Proof.Machine
end

