-- ==== Sys2Proof/Machine/Operands.lean ====
section
/-!
DEFINITION. Where an instruction's operands come from: the inputs of the step, addresses formed from the
index register, and the choice KEY_PICK. All values are unsigned and nothing is scaled (00_scope R8, 30_encoding R93).
-/

namespace Sys2Proof.Machine

/-! ## The inputs of a step (40_step_cycle R111) -/

/-- The inputs of the step being taken: those the host has placed first in `inputs`, else the free values of
Config for this step number. DESIGN CHOICE, safe, log entry 1. -/
def State.now (s : State) : Inputs :=
  match s.inputs with
  | x :: _ => x
  | [] => ⟨Config.elapsedUs s.stepNo, Config.keyNow s.stepNo, Config.renderJustHappened s.stepNo, Config.rnd s.stepNo⟩

/-- `KEY_NOW[k]`. -/
def State.keyDown (s : State) (k : Fin 16) : Bool := s.now.keyNow[k.val]

/-! ## Release edges (45_keypad_timer R218, R222) -/

/-- The keys pressed in the previous step's snapshot and not in this one's: the set `R` of R218. -/
def State.released (s : State) : Keys := Vector.ofFn fun k => s.keyPrev[k.val] && !s.keyDown k

/-- The members of a set of keys, lowest first. -/
def keyList (r : Keys) : List (Fin 16) := (List.finRange 16).filter fun k => r[k.val]

/-- KEY_PICK: some member of the set, `none` for the empty set. A single member is the only choice; among several the
choice is Config.keyHint where that is a member, else the lowest, so it is an arbitrary member. DESIGN CHOICE, safe, log entry 2. -/
def keyPick (r : Keys) : Option (Fin 16) :=
  match keyList r with
  | [] => none
  | [k] => some k
  | k :: _ => if r[(Config.keyHint r).val] then some (Config.keyHint r) else some k

/-! ## Addresses and index values (43_index_memory) -/

/-- `nnn` as a 16-bit value. -/
def addrOperand (nnn : Addr12) : Word := nnn.setWidth 16

/-- The data address `I + k`, exact and never reduced (R180). -/
def State.dataAddr (s : State) (k : Nat) : Nat := s.index.toNat + k

/-- `I + Vx`, exact (R182). -/
def indexSum (index : Word) (vx : Byte) : Nat := index.toNat + vx.toNat

/-- A value reduced modulo 4096, as an index register value (10_state R30). DESIGN CHOICE for unreachable states, safe, log entry 12. -/
def indexOfNat (n : Nat) : Word := BitVec.ofNat 16 (n % 4096)

/-- The address of the glyph of a hex digit, with the whole of `Vx` used (R183, decision D21 of the spec). -/
def glyphAddr (vx : Byte) : Word := BitVec.ofNat 16 (Config.fontBase + Config.glyphLen * vx.toNat)

/-- `nnn + V0`, not reduced modulo 4096 (41_flow R138, decision D24 of the spec). -/
def jumpSum (nnn : Addr12) (v0 : Byte) : Word := BitVec.ofNat 16 (nnn.toNat + v0.toNat)

/-- The quirk-mode increment of `I` by `count` registers (R185, R186, decision D15 of the spec). -/
def State.bumpIndex (s : State) (count : Nat) : State :=
  if s.quirk then s.setIndex (indexOfNat (s.index.toNat + count)) else s

/-! ## Sprite coordinates (44_display R201 to R204) -/

/-- A coordinate register of Dxyn: VF is reset before the coordinates are read, so VF reads 0 (R204, decision D6 of the spec). -/
def State.coord (s : State) (x : Nibble) : Byte := if x = 0xF then 0 else s.reg x

/-- `x0 = Vx mod 64` (R202). -/
def State.originCol (s : State) (x : Nibble) : Nat := (s.coord x).toNat % 64

/-- `y0 = Vy mod 32` (R202). -/
def State.originRow (s : State) (y : Nibble) : Nat := (s.coord y).toNat % 32

/-- `rows = min(n, 32 - y0)`: the sprite rows drawn (R203). -/
def State.spriteRows (s : State) (y n : Nibble) : Nat := min n.toNat (32 - s.originRow y)

/-! ## Decimal digits (43_index_memory R184) -/

/-- The hundreds, tens and units digits of a byte, each as a whole byte. -/
def bcdDigits (v : Byte) : List Byte :=
  [BitVec.ofNat 8 (v.toNat / 100), BitVec.ofNat 8 (v.toNat / 10 % 10), BitVec.ofNat 8 (v.toNat % 10)]

end Sys2Proof.Machine
end

