-- ==== Sys2Proof/Machine/Flags.lean ====
section
/-!
DEFINITION. The arithmetic laws of 42_alu R150 and every value VF takes (10_state R26). Results are computed
on exact numbers and narrowed once. The order of the writes of Vx and VF is R163.
-/

namespace Sys2Proof.Machine

/-- A condition as the value of VF. -/
def flagByte (c : Bool) : Byte := if c then 1 else 0

/-- The sum of two bytes modulo 256 (R150). -/
def addResult (a b : Byte) : Byte := BitVec.ofNat 8 (a.toNat + b.toNat)

/-- The sum overflowed: it exceeds 255 (R150, R157). -/
def addCarry (a b : Byte) : Bool := a.toNat + b.toNat > 255

/-- Minuend less subtrahend modulo 256 (R150). -/
def subResult (m t : Byte) : Byte := BitVec.ofNat 8 (m.toNat + 256 - t.toNat)

/-- The subtraction did not borrow: the minuend is not below the subtrahend (R150, R158, R160). -/
def subNoBorrow (m t : Byte) : Bool := !(m.toNat < t.toNat)

/-- Shift right by one, a zero shifted in (R150, R159). -/
def shrResult (a : Byte) : Byte := BitVec.ofNat 8 (a.toNat / 2)

/-- The bit a right shift moves out: bit 0 (R159). -/
def shrOut (a : Byte) : Bool := a.getLsbD 0

/-- Shift left by one, a zero shifted in (R150, R161). -/
def shlResult (a : Byte) : Byte := BitVec.ofNat 8 (a.toNat * 2)

/-- The bit a left shift moves out: bit 7 (R161). -/
def shlOut (a : Byte) : Bool := a.getLsbD 7

/-- Write `Vx`, then VF: with `x = F` the flag remains (R163, decision D5 of the spec). -/
def State.setRegFlag (s : State) (x : Nibble) (result : Byte) (flag : Bool) : State :=
  (s.setReg x result).setVF (flagByte flag)

/-- Write `Vx`, then, in quirk mode only, VF becomes 0 (R154 to R156). -/
def State.setRegLogic (s : State) (x : Nibble) (result : Byte) : State :=
  if s.quirk then (s.setReg x result).setVF 0 else s.setReg x result

/-- The value a shift works on: `Vy` in quirk mode, else `Vx` (10_state R33, R159, R161). -/
def State.shiftSource (s : State) (x y : Nibble) : Byte := if s.quirk then s.reg y else s.reg x

/-- Write the sum into the index register: at 4096 and above it is reduced and VF becomes 1, below VF is
not written (43_index_memory R182). -/
def State.addIndex (s : State) (vx : Byte) : State :=
  let sum := indexSum s.index vx
  if sum ≥ 4096 then (s.setIndex (indexOfNat sum)).setVF 1 else s.setIndex (BitVec.ofNat 16 sum)

end Sys2Proof.Machine
end

