-- ==== Sys2Proof/Machine/Alu.lean ====
section
/-!
DEFINITION. Register loads, arithmetic, logic, shifts and the random instruction (42_alu).
-/

namespace Sys2Proof.Machine

/-- 6xnn (R151). -/
def execLdImm (x : Nibble) (nn : Byte) (s : State) : Host.Outcome State Fault Refusal :=
  .next (s.setReg x nn)

/-- 7xnn: wraps and writes no flag (R152). -/
def execAddImm (x : Nibble) (nn : Byte) (s : State) : Host.Outcome State Fault Refusal :=
  .next (s.setReg x (addResult (s.reg x) nn))

/-- 8xy0 (R153). -/
def execLdReg (x y : Nibble) (s : State) : Host.Outcome State Fault Refusal :=
  .next (s.setReg x (s.reg y))

/-- 8xy1 (R154). -/
def execOr (x y : Nibble) (s : State) : Host.Outcome State Fault Refusal :=
  .next (s.setRegLogic x (s.reg x ||| s.reg y))

/-- 8xy2 (R155). -/
def execAnd (x y : Nibble) (s : State) : Host.Outcome State Fault Refusal :=
  .next (s.setRegLogic x (s.reg x &&& s.reg y))

/-- 8xy3 (R156). -/
def execXor (x y : Nibble) (s : State) : Host.Outcome State Fault Refusal :=
  .next (s.setRegLogic x (s.reg x ^^^ s.reg y))

/-- 8xy4 (R157). -/
def execAddReg (x y : Nibble) (s : State) : Host.Outcome State Fault Refusal :=
  .next (s.setRegFlag x (addResult (s.reg x) (s.reg y)) (addCarry (s.reg x) (s.reg y)))

/-- 8xy5 (R158). -/
def execSubReg (x y : Nibble) (s : State) : Host.Outcome State Fault Refusal :=
  .next (s.setRegFlag x (subResult (s.reg x) (s.reg y)) (subNoBorrow (s.reg x) (s.reg y)))

/-- 8xy6 (R159). -/
def execShr (x y : Nibble) (s : State) : Host.Outcome State Fault Refusal :=
  .next (s.setRegFlag x (shrResult (s.shiftSource x y)) (shrOut (s.shiftSource x y)))

/-- 8xy7: the operands of 8xy5 reversed, the destination still Vx (R160). -/
def execSubn (x y : Nibble) (s : State) : Host.Outcome State Fault Refusal :=
  .next (s.setRegFlag x (subResult (s.reg y) (s.reg x)) (subNoBorrow (s.reg y) (s.reg x)))

/-- 8xyE (R161). -/
def execShl (x y : Nibble) (s : State) : Host.Outcome State Fault Refusal :=
  .next (s.setRegFlag x (shlResult (s.shiftSource x y)) (shlOut (s.shiftSource x y)))

/-- Cxnn: the random byte is the step input `rnd` (R162). -/
def execRnd (x : Nibble) (nn : Byte) (s : State) : Host.Outcome State Fault Refusal :=
  .next (s.setReg x (s.now.rnd &&& nn))

end Sys2Proof.Machine
end

