-- ==== Sys2Proof/Machine/Flow.lean ====
section
/-!
DEFINITION. The control-transfer instructions (41_flow). In each, `pc` already holds `a + 2`.
-/

namespace Sys2Proof.Machine

/-- 00EE (R131). -/
def execRet (s : State) : Host.Outcome State Fault Refusal :=
  .next (s.pop (encode .ret) fun target t => t.jump target)

/-- 1nnn (R132). -/
def execJp (nnn : Addr12) (s : State) : Host.Outcome State Fault Refusal :=
  .next (s.jump (addrOperand nnn))

/-- 2nnn: pushes the address after the call (R133). -/
def execCall (nnn : Addr12) (s : State) : Host.Outcome State Fault Refusal :=
  .next (s.push s.pc (encode (.call nnn)) fun t => t.jump (addrOperand nnn))

/-- 3xnn (R134). -/
def execSeImm (x : Nibble) (nn : Byte) (s : State) : Host.Outcome State Fault Refusal :=
  .next (s.skipIf (s.reg x == nn))

/-- 4xnn (R135). -/
def execSneImm (x : Nibble) (nn : Byte) (s : State) : Host.Outcome State Fault Refusal :=
  .next (s.skipIf (s.reg x != nn))

/-- 5xy0 (R136). -/
def execSeReg (x y : Nibble) (s : State) : Host.Outcome State Fault Refusal :=
  .next (s.skipIf (s.reg x == s.reg y))

/-- 9xy0 (R137). -/
def execSneReg (x y : Nibble) (s : State) : Host.Outcome State Fault Refusal :=
  .next (s.skipIf (s.reg x != s.reg y))

/-- Bnnn: always V0 (R138). -/
def execJpV0 (nnn : Addr12) (s : State) : Host.Outcome State Fault Refusal :=
  .next (s.jump (jumpSum nnn (s.reg 0x0)))

end Sys2Proof.Machine
end

