-- ==== Sys2Proof/Machine/IndexMemory.lean ====
section
/-!
DEFINITION. The index-register and memory instructions (43_index_memory). A data access above 0xFFF raises
DataAddressOutOfBounds before anything changes (20_memory R70, decision D7 of the spec).
-/

namespace Sys2Proof.Machine

/-- V0 to Vx, in order. -/
def State.regsUpTo (s : State) (x : Nibble) : List Byte := s.v.toList.take (x.toNat + 1)

/-- Load the first `k` registers from memory at `a` (R186: `V[i] <- MemRead(a + i, 1)` for `i` from 0). -/
def loadFrom (m : Memory) (a : Nat) : Nat → RegFile → RegFile
  | 0, v => v
  | k + 1, v => (loadFrom m a k v).setIfInBounds k (m.read (a + k))

/-- Annn (R181). -/
def execLdI (nnn : Addr12) (s : State) : Host.Outcome State Fault Refusal :=
  .next (s.setIndex (addrOperand nnn))

/-- Fx1E (R182). -/
def execAddI (x : Nibble) (s : State) : Host.Outcome State Fault Refusal :=
  .next (s.addIndex (s.reg x))

/-- Fx29 (R183). -/
def execLdF (x : Nibble) (s : State) : Host.Outcome State Fault Refusal :=
  .next (s.setIndex (glyphAddr (s.reg x)))

/-- Fx33 (R184). -/
def execLdB (x : Nibble) (s : State) : Host.Outcome State Fault Refusal :=
  .next (s.withDataBound (s.dataAddr 2)
    (s.setMem (s.mem.writeBytes (s.dataAddr 0) (bcdDigits (s.reg x)))))

/-- Fx55 (R185). -/
def execStoreRegs (x : Nibble) (s : State) : Host.Outcome State Fault Refusal :=
  .next (s.withDataBound (s.dataAddr x.toNat)
    ((s.setMem (s.mem.writeBytes (s.dataAddr 0) (s.regsUpTo x))).bumpIndex (x.toNat + 1)))

/-- Fx65 (R186). -/
def execLoadRegs (x : Nibble) (s : State) : Host.Outcome State Fault Refusal :=
  .next (s.withDataBound (s.dataAddr x.toNat)
    ((s.setRegs (loadFrom s.mem (s.dataAddr 0) (x.toNat + 1) s.v)).bumpIndex (x.toNat + 1)))

end Sys2Proof.Machine
end

