-- ==== Sys2Proof/Machine/KeypadTimer.lean ====
section
/-!
DEFINITION. The keypad and timer instructions (45_keypad_timer).
-/

namespace Sys2Proof.Machine

/-- Ex9E: a level test of the current snapshot (R216). -/
def execSkp (x : Nibble) (s : State) : Host.Outcome State Fault Refusal :=
  .next (s.withKeyIndex (s.reg x) fun k => s.skipIf (s.keyDown k))

/-- ExA1: the complement of Ex9E (R217). -/
def execSknp (x : Nibble) (s : State) : Host.Outcome State Fault Refusal :=
  .next (s.withKeyIndex (s.reg x) fun k => s.skipIf (!s.keyDown k))

/-- The key wait: a release edge is stored, none blocks (R218). -/
def State.awaitKey (s : State) (x : Nibble) : State :=
  match keyPick s.released with
  | none => s.rewind
  | some k => s.setReg x (BitVec.ofNat 8 k.val)

/-- Fx0A (R218). -/
def execLdVxK (x : Nibble) (s : State) : Host.Outcome State Fault Refusal :=
  .next (s.awaitKey x)

/-- Fx07: reads the timer as this step's timer phase left it (R219). -/
def execLdVxDT (x : Nibble) (s : State) : Host.Outcome State Fault Refusal :=
  .next (s.setReg x s.dt)

/-- Fx15 (R220). -/
def execLdDT (x : Nibble) (s : State) : Host.Outcome State Fault Refusal :=
  .next (s.setDT (s.reg x))

/-- Fx18 (R221). -/
def execLdST (x : Nibble) (s : State) : Host.Outcome State Fault Refusal :=
  .next (s.setST (s.reg x))

end Sys2Proof.Machine
end

