-- ==== Sys2Proof/Machine/Screen.lean ====
section
/-!
DEFINITION. The display instructions (44_display): clear, and the XOR sprite draw with clipping and collision.
-/

namespace Sys2Proof.Machine

/-- The display while a sprite is drawn, and whether a pixel that was set has been toggled. -/
structure Canvas where
  disp : Display
  hit : Bool
deriving DecidableEq, Repr

/-- Toggle one pixel; a pixel that was set is a collision (R205). -/
def toggle (r c : Nat) (d : Canvas) : Canvas := ⟨d.disp.flip r c, d.hit || d.disp.get r c⟩

/-- The first `k` columns of a sprite row `b`, at display row `r` from column `x0`: bit 7 is leftmost, a bit of 0
changes nothing, columns past 63 are dropped (R201, R202). -/
def drawCols (b : Byte) (r x0 : Nat) : Nat → Canvas → Canvas
  | 0, d => d
  | k + 1, d =>
    if x0 + k ≤ 63 ∧ b.getLsbD (7 - k) then toggle r (x0 + k) (drawCols b r x0 k d) else drawCols b r x0 k d

/-- The first `k` rows of the sprite at address `base`, from display row `y0` and column `x0` (R201). -/
def drawRows (m : Memory) (base y0 x0 : Nat) : Nat → Canvas → Canvas
  | 0, d => d
  | k + 1, d => drawCols (m.read (base + k)) (y0 + k) x0 8 (drawRows m base y0 x0 k d)

/-- The canvas after the whole sprite of Dxyn. -/
def State.sprite (s : State) (x y n : Nibble) : Canvas :=
  drawRows s.mem (s.dataAddr 0) (s.originRow y) (s.originCol x) (s.spriteRows y n) ⟨s.disp, false⟩

/-- Show a canvas: the display and, in VF, the collision (R205). -/
def State.show (s : State) (d : Canvas) : State := (s.setDisp d.disp).setVF (flagByte d.hit)

/-- The draw of a Dxyn that is not blocked. A draw of no rows makes no access and checks nothing (R203). -/
def State.draw (s : State) (x y n : Nibble) : State :=
  let rows := s.spriteRows y n
  if rows = 0 then s.show ⟨s.disp, false⟩
  else s.withDataBound (s.dataAddr (rows - 1)) (s.show (s.sprite x y n))

/-- 00E0 (R200). -/
def execCls (s : State) : Host.Outcome State Fault Refusal :=
  .next (s.setDisp Display.blank)

/-- Dxyn: waits for the render flag of this step (R201, R206). -/
def execDrw (x y n : Nibble) (s : State) : Host.Outcome State Fault Refusal :=
  .next (if s.now.renderJustHappened then s.draw x y n else s.rewind)

end Sys2Proof.Machine
end

