-- ==== Sys2Proof/Machine/Cycle.lean ====
section
/-!
DEFINITION. The phases of a step around the execute phase (40_step_cycle R114): halted check, timer phase,
fetch, advance, decode, latch. Step.lean only calls `cycle`.
-/

namespace Sys2Proof.Machine

/-! ## Phase 1: the timer engine (60_exceptions R258) -/

/-- The loop of R258 as it is written, on exact numbers, with a bound on its iterations: it decrements both timers
while the accumulator holds a whole interval. `timerTick` is its closed form, which R258 also gives. -/
def timerLoop : Nat → Nat → Byte → Byte → Nat × Byte × Byte
  | 0, acc, dt, st => (acc, dt, st)
  | k + 1, acc, dt, st =>
    if acc ≥ Config.timerInterval then
      timerLoop k (acc - Config.timerInterval) (if dt.toNat > 0 then dt - 1 else dt) (if st.toNat > 0 then st - 1 else st)
    else (acc, dt, st)

/-- A timer after `k` decrements, floored at 0. -/
def timerAfter (t : Byte) (k : Nat) : Byte := BitVec.ofNat 8 (t.toNat - k)

/-- `TimerTick(elapsed_us)`, in the closed form of R258: with `k` the number of whole intervals. -/
def timerTick (elapsed : BitVec 32) (s : State) : State :=
  let total := s.acc.toNat + elapsed.toNat
  { s with
    dt := timerAfter s.dt (total / Config.timerInterval)
    st := timerAfter s.st (total / Config.timerInterval)
    acc := BitVec.ofNat 64 (total % Config.timerInterval) }

/-! ## Phases 2 and 3: fetch and advance (R115, R116) -/

/-- The big-endian word at an address (20_memory R66). -/
def readWord (m : Memory) (a : Nat) : Word := wordOfBytes (m.read a) (m.read (a + 1))

/-- The instruction word at `pc`; none when `pc` or `pc + 1` is outside memory (20_memory R67). -/
def fetch (s : State) : Option Word := if s.pc.toNat > 0xFFE then none else some (readWord s.mem s.pc.toNat)

/-- `pc <- pc + 2`. -/
def State.advance (s : State) : State := { s with pc := s.pc + 2 }

/-! ## Phase 6 and the end of a step -/

/-- `KEY_PREV <- KEY_NOW` (R118). -/
def State.latch (s : State) : State := { s with keyPrev := s.now.keyNow }

/-- The model's own: the step has used its inputs; a halted machine uses none. DESIGN CHOICE, safe, log entries 1 and 11. -/
def State.consume (s : State) : State := { s with inputs := s.inputs.tail, stepNo := s.stepNo + 1 }

/-- The end of a step: the latch, except in a step that raised a fatal condition (60_exceptions R247), and the inputs used up. -/
def State.endStep (s : State) : State := if s.halted then s.consume else s.latch.consume

/-- The state of phases 3 and 4: after the timer phase, with `pc` advanced. -/
def State.executing (s : State) : State := (timerTick s.now.elapsedUs s).advance

/-- What follows the execute phase. -/
def finish : Host.Outcome State Fault Refusal → Host.Outcome State Fault Refusal
  | .next t => .next t.endStep
  | .fault f => .fault f
  | .refused r => .refused r

/-- One step of a machine that is not halted (R114, phases 1 to 6). -/
def runStep (s : State) : Host.Outcome State Fault Refusal :=
  let t := timerTick s.now.elapsedUs s
  match fetch t with
  | none => .next (t.raiseAt .fetchOutOfBounds t.pc 0).endStep
  | some w =>
    match decodeWord w with
    | .refused _ => .next (t.raiseAt .unrecognizedInstruction t.pc w).endStep
    | .ok i => finish (exec i t.advance)

/-- One step (R114): a halted machine does nothing (60_exceptions R248). -/
def cycle (s : State) : Host.Outcome State Fault Refusal := if s.halted then .next s else runStep s

/-! ## Placing an instruction -/

/-- Write the two bytes of a word at `pc`, where the next fetch reads them; a `pc` no fetch can read from leaves the state as it is. -/
def State.placeWord (s : State) (w : Word) : State :=
  if s.pc.toNat > 0xFFE then s
  else s.setMem (s.mem.writeBytes s.pc.toNat [highByte w, lowByte w])

end Sys2Proof.Machine
end

