-- ==== Sys2Proof/Machine/Step.lean ====
section
/-!
DEFINITION. The step of the machine, and the placing of an instruction where it fetches its next one.
-/

namespace Sys2Proof.Machine

/-- One `step` (40_step_cycle R114). -/
def step (s : State) : Host.Outcome State Fault Refusal := cycle s

/-- `s` with the instruction of bits `w` (numbered as spec/opcode_table.json numbers them, the bits from `nbits` up zero)
at `pc`, big-endian (20_memory R66). It stands for the loading of a program. DESIGN CHOICE, safe, log entry 7. -/
def State.withFetchWord (s : State) (nbits w : Nat) : State := s.placeWord (tableWord nbits w)

end Sys2Proof.Machine
end

