-- ==== Sys2Proof/Machine/Creation.lean ====
section
/-!
DEFINITION. Creation, which is this machine's reset (70_reset_and_hazards R280 to R283).
-/

namespace Sys2Proof.Machine

/-- `create(P, q)` (R281): the program at 0x200, the quirk flag, and every other field as `State.reset` has it.
A program that does not fit is refused (R282, decision D19 of the spec). -/
def create (program : List Byte) (quirk : Bool) : Host.Outcome State Fault Refusal :=
  if programFits program then
    .next { State.reset with mem := State.reset.mem.writeBytes Config.progBase program, quirk := quirk }
  else .refused .programTooLong

end Sys2Proof.Machine
end

