-- ==== Sys2Proof/Machine/Ports.lean ====
section
/-!
DEFINITION. The outputs the host reads between steps (40_step_cycle R113), and the host placing the inputs of a step (R111).
-/

namespace Sys2Proof.Machine

/-- The output ports. The delay timer, memory and the registers are not among them (R113). -/
structure Outputs where
  /-- `display`. -/
  display : Display
  /-- `sound_timer`. -/
  soundTimer : Byte
  /-- `halted`. -/
  halted : Bool
  /-- `fault_cause`. -/
  faultCause : BitVec 3
  /-- `fault_addr`. -/
  faultAddr : Word
  /-- `fault_info`. -/
  faultInfo : Word
deriving DecidableEq, Repr

/-- What the host sees. -/
def State.outputs (s : State) : Outputs := ⟨s.disp, s.st, s.halted, s.faultCode, s.faultAddr, s.faultInfo⟩

/-- The host supplies the inputs of the next step. -/
def State.supply (s : State) (x : Inputs) : State := { s with inputs := x :: s.inputs }

end Sys2Proof.Machine
end

