-- ==== Sys2Proof/Safety.lean ====
section
/-!
DEFINITION. What counts as a safe state and the invariants of 10_state R42, in the terms the statements use.
-/

namespace Sys2Proof.Machine

/-- A state the machine can go on from: no fatal condition was raised. -/
def State.Running (s : State) : Prop := s.halted = false

/-- What a run that stands in this state counts as: a halted state is a fault, never a successful end (60_exceptions R248). -/
def State.verdict (s : State) : Host.Outcome State Fault Refusal :=
  match s.faultCause with
  | some f => .fault f
  | none => .next s

/-- The invariants of 10_state R42, and the canonical form of memory. -/
structure State.Inv (s : State) : Prop where
  mem_wf : s.mem.wf = true
  index_le : s.index.toNat ≤ 4095
  acc_le : s.acc.toNat ≤ 16666
  pc_le : s.pc.toNat ≤ 4350
  stack_le : ∀ k : Fin 64, k.val < s.sp.val → s.stack[k.val].toNat ≤ 4096
  cause_iff : s.faultCause = none ↔ s.halted = false
  faultAddr_le : s.faultAddr.toNat ≤ 4350

/-- The number `w` is the instruction word of `i`: what 30_encoding R96 and the instruction's own rule give as its encoding. -/
def Encodes (i : Instr) (w : Nat) : Prop := w < 0x10000 ∧ decodeWord (BitVec.ofNat 16 w) = .ok i

/-- Every byte of memory reads the same. -/
def SameMemory (s t : State) : Prop := ∀ a : Nat, t.mem.read a = s.mem.read a

/-- Every byte of memory outside the `len` bytes from `a` reads the same. -/
def SameMemoryOutside (a len : Nat) (s t : State) : Prop :=
  ∀ b : Nat, (b < a ∨ a + len ≤ b) → t.mem.read b = s.mem.read b

/-- Every general register but those in the list reads the same. -/
def SameRegsBut (changed : List Nibble) (s t : State) : Prop :=
  ∀ r : Nibble, r ∉ changed → t.reg r = s.reg r

/-- The call stack, the timers and the accumulator, the display, the previous keypad snapshot and the quirk flag are the
same, and so are the model's own input fields. -/
def SameSpecial (s t : State) : Prop :=
  t.stack = s.stack ∧ t.sp = s.sp ∧ t.dt = s.dt ∧ t.st = s.st ∧ t.acc = s.acc ∧ t.disp = s.disp ∧
  t.keyPrev = s.keyPrev ∧ t.quirk = s.quirk ∧ t.inputs = s.inputs ∧ t.stepNo = s.stepNo

/-- The halt latch and the fault record are the same. -/
def SameRecord (s t : State) : Prop :=
  t.halted = s.halted ∧ t.faultCause = s.faultCause ∧ t.faultAddr = s.faultAddr ∧ t.faultInfo = s.faultInfo

/-- Only general registers of the list may differ. -/
def OnlyRegs (changed : List Nibble) (s t : State) : Prop :=
  SameRegsBut changed s t ∧ t.pc = s.pc ∧ t.index = s.index ∧ SameMemory s t ∧ SameSpecial s t ∧ SameRecord s t

/-- Only the program counter may differ. -/
def OnlyPc (s t : State) : Prop :=
  SameRegsBut [] s t ∧ t.index = s.index ∧ SameMemory s t ∧ SameSpecial s t ∧ SameRecord s t

/-- Only the index register and general registers of the list may differ. -/
def OnlyIndexAndRegs (changed : List Nibble) (s t : State) : Prop :=
  SameRegsBut changed s t ∧ t.pc = s.pc ∧ SameMemory s t ∧ SameSpecial s t ∧ SameRecord s t

/-- `t` is `s` after the fatal condition `f` was raised for the instruction at `a`: the five assignments of 60_exceptions
R246, and nothing else. -/
def Raised (f : Fault) (a info : Word) (s t : State) : Prop :=
  t.pc = a ∧ t.halted = true ∧ t.faultCause = some f ∧ t.faultAddr = a ∧ t.faultInfo = info ∧
  SameRegsBut [] s t ∧ t.index = s.index ∧ SameMemory s t ∧ SameSpecial s t

/-- The key is pressed in the previous step's snapshot and not in this one's (45_keypad_timer R218). -/
def ReleaseEdge (s : State) (k : Fin 16) : Prop := s.keyPrev[k.val] = true ∧ s.now.keyNow[k.val] = false

/-- The sprite of Dxyn has a set bit over pixel `(r, c)` of the display: the row of the sprite that falls on `r` is one of
its `n` rows, and the column is one of the eight from the origin; nothing wraps (44_display R201 to R204). `vx` and `vy`
are the coordinates. -/
def SpriteBit (s : State) (vx vy n : Nat) (r c : Nat) : Prop :=
  vy % 32 ≤ r ∧ r < vy % 32 + n ∧ vx % 64 ≤ c ∧ c < vx % 64 + 8 ∧
  (s.mem.read (s.index.toNat + (r - vy % 32))).getLsbD (7 - (c - vx % 64)) = true

end Sys2Proof.Machine
end

