-- ==== Sys2Proof/Certificates/Slice0/Obligations.lean ====
section
/-!
DEFINITION. The statements about the machine, one definition each, listed in OBLIGATIONS.json. In a statement about `exec`
the state is that of the execute phase: `pc` is already `a + 2`, with `a` the address of the instruction (40_step_cycle R116).
-/

open Sys2Proof Sys2Proof.Machine

/-! ## Encoding -/

/-- The words of the rules' own examples decode to the instructions they stand for (R200, R131 to R134, R151, R159, R161, R181 to R186,
R201, R216 to R218), and two words are refused: 0x0000, which matches no row (R97), and 0x5121, where refusing it is the spec's own
decision D12, the literal reading of 5xy0 (R95; log entry 6). -/
def Obligations.ExampleWordsDecode : Prop :=
  decodeWord 0x00E0 = .ok .cls ∧ decodeWord 0x00EE = .ok .ret ∧ decodeWord 0x1234 = .ok (.jp 0x234) ∧
  decodeWord 0x2300 = .ok (.call 0x300) ∧ decodeWord 0x332A = .ok (.seImm 3 0x2A) ∧
  decodeWord 0x6A2F = .ok (.ldImm 0xA 0x2F) ∧ decodeWord 0x8126 = .ok (.shr 1 2) ∧ decodeWord 0x812E = .ok (.shl 1 2) ∧
  decodeWord 0xA2F0 = .ok (.ldI 0x2F0) ∧ decodeWord 0xF21E = .ok (.addI 2) ∧ decodeWord 0xF429 = .ok (.ldF 4) ∧
  decodeWord 0xF533 = .ok (.ldB 5) ∧ decodeWord 0xF255 = .ok (.storeRegs 2) ∧ decodeWord 0xE29E = .ok (.skp 2) ∧
  decodeWord 0xF165 = .ok (.loadRegs 1) ∧ decodeWord 0xD015 = .ok (.drw 0 1 5) ∧ decodeWord 0xE2A1 = .ok (.sknp 2) ∧
  decodeWord 0xF30A = .ok (.ldVxK 3) ∧ decodeWord 0x0000 = .refused (.unrecognized 0x0000) ∧
  decodeWord 0x5121 = .refused (.unrecognized 0x5121)

/-- Decoding the encoding of a well-formed instruction gives it back, as a word and as bytes, with every operand at every
value its field admits. -/
def Obligations.DecodeInvertsEncode : Prop :=
  ∀ (i : Instr) (rest : List Byte), i.wellFormed = true →
    decodeWord (encode i) = .ok i ∧ decodeBytes (encodeBytes i ++ rest) = .ok (i, rest)

/-- A word that decodes is the encoding of what it decodes to: every bit of the word is used. That every literal digit must match is the
spec's own decision D12 (log entry 6). -/
def Obligations.EncodeInvertsDecode : Prop :=
  ∀ (w : Word) (i : Instr), decodeWord w = .ok i → encode i = w

/-- Decoding follows the opcode map (R94, R96): a word selects exactly one row, and decodes to an instruction of that row's
pattern, or it selects none, and is unrecognized. -/
def Obligations.DecodingFollowsOpcodeMap : Prop :=
  ∀ w : Word,
    (∀ r ∈ opcodeMap, r.selects w = true → ∃ i, decodeWord w = .ok i ∧ i.pattern = r.pattern) ∧
    (∀ i, decodeWord w = .ok i → ∃ r ∈ opcodeMap, r.pattern = i.pattern ∧ r.selects w = true) ∧
    (∀ r₁ ∈ opcodeMap, ∀ r₂ ∈ opcodeMap, r₁.selects w = true → r₂.selects w = true → r₁ = r₂) ∧
    ((∀ r ∈ opcodeMap, r.selects w = false) → decodeWord w = .refused (.unrecognized w))

/-! ## The step cycle -/

/-- The fetch reads the two bytes at `pc` as a big-endian word exactly when `pc` is at most 0xFFE (R66, and the bound of R67). -/
def Obligations.FetchReadsBigEndianWord : Prop :=
  ∀ s : State,
    (s.pc.toNat ≤ 0xFFE → ∃ w, fetch s = some w ∧
      w.toNat = (s.mem.read s.pc.toNat).toNat * 256 + (s.mem.read (s.pc.toNat + 1)).toNat) ∧
    (0xFFE < s.pc.toNat → fetch s = none)

/-- A step runs the decoded instruction: when the two bytes at `pc` decode to `i`, the step of a machine that is not halted is
`exec i` after the timer phase and the advance of `pc`, followed by the latch of KEY_PREV (not after a fatal condition) and, in
the model's own fields (log entries 1 and 11), by using up the inputs. The order of the timer phase and the latch is the spec's choice (D2, D10). -/
def Obligations.StepRunsDecodedInstruction : Prop :=
  ∀ (s : State) (i : Instr), s.halted = false → s.pc.toNat ≤ 0xFFE → i.wellFormed = true →
    decodeBytes [s.mem.read s.pc.toNat, s.mem.read (s.pc.toNat + 1)] = .ok (i, []) →
    let total := s.acc.toNat + s.now.elapsedUs.toNat
    let before : State := { s with
      dt := BitVec.ofNat 8 (s.dt.toNat - total / 16667)
      st := BitVec.ofNat 8 (s.st.toNat - total / 16667)
      acc := BitVec.ofNat 64 (total % 16667)
      pc := s.pc + 2 }
    step s = match exec i before with
      | .next t =>
        if t.halted then .next { t with inputs := t.inputs.tail, stepNo := t.stepNo + 1 }
        else .next { t with keyPrev := t.now.keyNow, inputs := t.inputs.tail, stepNo := t.stepNo + 1 }
      | .fault f => .fault f
      | .refused r => .refused r

/-- A fetch outside memory raises FetchOutOfBounds: cause, address, zero info, `pc` at the address (R241). The record is the spec's own
decision D14. -/
def Obligations.FetchOutsideMemoryRaises : Prop :=
  ∀ s : State, s.halted = false → 0xFFE < s.pc.toNat →
    ∃ t, step s = .next t ∧ t.halted = true ∧ t.faultCause = some .fetchOutOfBounds ∧ t.faultAddr = s.pc ∧
      t.faultInfo = 0 ∧ t.pc = s.pc

/-- A fetched word that matches no row raises UnrecognizedInstruction with the word as info and skips nothing (R242). The record is the
spec's own decision D14, the literal reading of the rows its decision D12. -/
def Obligations.UnrecognizedWordRaises : Prop :=
  ∀ (s : State) (w : Word), s.halted = false → fetch s = some w → (∀ r ∈ opcodeMap, r.selects w = false) →
    ∃ t, step s = .next t ∧ t.halted = true ∧ t.faultCause = some .unrecognizedInstruction ∧ t.faultAddr = s.pc ∧
      t.faultInfo = w ∧ t.pc = s.pc

/-- The halted state is absorbing: a step changes nothing at all. For the state of the core that is decision D13 of the spec; that
the model's own fields, the inputs and the step counter, stay too is the model's choice, log entry 11. -/
def Obligations.HaltedStepChangesNothing : Prop :=
  ∀ s : State, s.halted = true → step s = .next s

/-- Every step, and every instruction in every state, answers a next state: nothing is refused and nothing stops. That a fatal
condition is a next state which is halted, and no fault of the step, is the model's choice, log entry 8. -/
def Obligations.EveryStepAnswersNext : Prop :=
  (∀ s : State, ∃ t, step s = .next t) ∧ ∀ (i : Instr) (s : State), ∃ t, exec i s = .next t

/-- Fatal conditions are precise: the step that raises one leaves everything as it was but the timer phase, the fault record, and
the model's own input fields; `pc` and FAULT_ADDR are the address of the instruction, KEY_PREV is not latched. Decisions D14 and, for the timer phase, D2. -/
def Obligations.FatalStepIsPrecise : Prop :=
  ∀ s t : State, s.halted = false → step s = .next t → t.halted = true →
    let total := s.acc.toNat + s.now.elapsedUs.toNat
    t.pc = s.pc ∧ t.faultAddr = s.pc ∧ t.faultCause.isSome = true ∧ SameRegsBut [] s t ∧ t.index = s.index ∧ SameMemory s t ∧
    t.stack = s.stack ∧ t.sp = s.sp ∧ t.disp = s.disp ∧ t.keyPrev = s.keyPrev ∧ t.quirk = s.quirk ∧
    t.dt.toNat = s.dt.toNat - total / 16667 ∧ t.st.toNat = s.st.toNat - total / 16667 ∧ t.acc.toNat = total % 16667

/-- Only these events halt the machine, each with its cause and its info (60_exceptions section 1). The spec's own
decisions: codes 5 and 6 are D7 and D8, the record D14, the literal reading of the rows D12, the rows a Dxyn reads D25, and row 0 for
y = F D6. -/
def Obligations.OnlyTheseEventsHalt : Prop :=
  ∀ s t : State, s.halted = false → step s = .next t → t.halted = true →
    let w := readWord s.mem s.pc.toNat
    (0xFFE < s.pc.toNat ∧ t.faultCause = some .fetchOutOfBounds ∧ t.faultInfo = 0) ∨
    (s.pc.toNat ≤ 0xFFE ∧
      ((decodeWord w = .refused (.unrecognized w) ∧ t.faultCause = some .unrecognizedInstruction ∧ t.faultInfo = w) ∨
       ∃ i, decodeWord w = .ok i ∧
        ((∃ nnn, i = .call nnn ∧ s.sp.val = 64 ∧ t.faultCause = some .stackOverflow ∧ t.faultInfo = w) ∨
         (i = .ret ∧ s.sp.val = 0 ∧ t.faultCause = some .stackUnderflow ∧ t.faultInfo = w) ∨
         (∃ h, 0xFFF < h ∧ t.faultCause = some .dataAddressOutOfBounds ∧ t.faultInfo = BitVec.ofNat 16 h ∧
          ((∃ x, i = .ldB x ∧ h = s.index.toNat + 2) ∨
           (∃ x, (i = .storeRegs x ∨ i = .loadRegs x) ∧ h = s.index.toNat + x.toNat) ∨
           (∃ x y n, i = .drw x y n ∧ s.now.renderJustHappened = true ∧ 1 ≤ n.toNat ∧
            h = s.index.toNat + min n.toNat (32 - (if y = 0xF then 0 else (s.reg y).toNat) % 32) - 1))) ∨
         (∃ x, (i = .skp x ∨ i = .sknp x) ∧ 15 < (s.reg x).toNat ∧ t.faultCause = some .keyIndexOutOfRange ∧
          t.faultInfo.toNat = (s.reg x).toNat))))

/-- KEY_PREV becomes KEY_NOW at the end of every step that raised no fatal condition, blocked steps included, and of no other.
The moment is the spec's own decision D10, no latch after a fatal condition its decision D14. -/
def Obligations.LatchEndsEveryNonFatalStep : Prop :=
  ∀ s t : State, s.halted = false → step s = .next t →
    (t.halted = false → t.keyPrev = s.now.keyNow) ∧ (t.halted = true → t.keyPrev = s.keyPrev)

/-- Where `pc` stands after every step, in the rows of R28: with `a` the address of the instruction, at the target of a jump, call or return, at
`a + 4` after a taken skip, at `a` after a blocked instruction or a fatal condition, else at `a + 2`. The spec's own decisions:
D24 for Bnnn, D14 after a fatal condition, D8 for a key index above 15. -/
def Obligations.PcAfterEveryStep : Prop :=
  ∀ s t : State, s.halted = false → step s = .next t →
    let a := s.pc
    (t.halted = true → t.pc = a) ∧
    (t.halted = false → ∃ i, decodeWord (readWord s.mem a.toNat) = .ok i ∧
      match i with
      | .jp nnn => t.pc.toNat = nnn.toNat
      | .call nnn => t.pc.toNat = nnn.toNat ∧ ∃ h : s.sp.val < 64, t.stack[s.sp.val] = a + 2
      | .ret => ∃ h : s.sp.val - 1 < 64, t.pc = s.stack[s.sp.val - 1]
      | .jpV0 nnn => t.pc.toNat = nnn.toNat + (s.reg 0).toNat
      | .seImm x nn => t.pc = if s.reg x = nn then a + 4 else a + 2
      | .sneImm x nn => t.pc = if s.reg x ≠ nn then a + 4 else a + 2
      | .seReg x y => t.pc = if s.reg x = s.reg y then a + 4 else a + 2
      | .sneReg x y => t.pc = if s.reg x ≠ s.reg y then a + 4 else a + 2
      | .skp x => ∃ h : (s.reg x).toNat < 16, t.pc = if s.now.keyNow[(s.reg x).toNat] = true then a + 4 else a + 2
      | .sknp x => ∃ h : (s.reg x).toNat < 16, t.pc = if s.now.keyNow[(s.reg x).toNat] = false then a + 4 else a + 2
      | .drw _ _ _ => t.pc = if s.now.renderJustHappened = true then a + 2 else a
      | .ldVxK _ => ((∃ k, ReleaseEdge s k) → t.pc = a + 2) ∧ ((¬ ∃ k, ReleaseEdge s k) → t.pc = a)
      | _ => t.pc = a + 2)

/-- A blocked instruction changes no state: the step runs its timer phase and its latch, and `pc` stays at the instruction, so that
the next step fetches it again (40_step_cycle section 3). That the timer phase runs in a blocked step is the spec's own decision D2, that
KEY_PREV is latched in one its decision D10 (log entry 6); that the step uses up its inputs and is counted is the model's choice, log entry 1. -/
def Obligations.BlockedStepRetries : Prop :=
  ∀ (s : State) (i : Instr), s.halted = false → s.pc.toNat ≤ 0xFFE → decodeWord (readWord s.mem s.pc.toNat) = .ok i →
    ((∃ x y n, i = .drw x y n) ∧ s.now.renderJustHappened = false) ∨ ((∃ x, i = .ldVxK x) ∧ ¬ ∃ k, ReleaseEdge s k) →
    step s = .next { timerTick s.now.elapsedUs s with
      keyPrev := s.now.keyNow, inputs := s.inputs.tail, stepNo := s.stepNo + 1 }

/-- A halted state counts as a fault and never as the end of a program, and a running one as neither (60_exceptions section 2). Decisions
D13 and, for the codes, D14; the verdict is the model's, log entries 8 and 13. -/
def Obligations.HaltedStateIsAFault : Prop :=
  ∀ s : State, s.Inv →
    (s.halted = true → ∃ f, s.faultCause = some f ∧ s.verdict = .fault f ∧ s.faultCode = f.code ∧ s.faultCode ≠ 0) ∧
    (s.halted = false → s.verdict = .next s ∧ s.faultCode = 0)

/-! ## Timers -/

/-- The timer phase is the loop of R258: add the elapsed time, and while a whole interval is left take it off and decrement each
timer that is above 0. -/
def Obligations.TimerPhaseIsTheLoop : Prop :=
  ∀ (s : State) (elapsed : BitVec 32) (fuel : Nat), (s.acc.toNat + elapsed.toNat) / 16667 ≤ fuel →
    timerLoop fuel (s.acc.toNat + elapsed.toNat) s.dt s.st =
      ((timerTick elapsed s).acc.toNat, (timerTick elapsed s).dt, (timerTick elapsed s).st)

/-- Every step of a machine that is not halted runs the timer phase once, before its instruction (decision D2): the accumulator keeps
the remainder, and each timer drops by the whole intervals, floored at 0, unless the step's own instruction then loads it. The last
three clauses show the order: what Fx15 and Fx18 load stays whole, and Fx07 reads the delay timer already counted down. -/
def Obligations.TimersRunInEveryStep : Prop :=
  ∀ s t : State, s.halted = false → step s = .next t →
    let total := s.acc.toNat + s.now.elapsedUs.toNat
    let w := readWord s.mem s.pc.toNat
    t.acc.toNat = total % 16667 ∧
    ((0xFFE < s.pc.toNat ∨ ∀ x, decodeWord w ≠ .ok (.ldDT x)) → t.dt.toNat = s.dt.toNat - total / 16667) ∧
    ((0xFFE < s.pc.toNat ∨ ∀ x, decodeWord w ≠ .ok (.ldST x)) → t.st.toNat = s.st.toNat - total / 16667) ∧
    (s.pc.toNat ≤ 0xFFE → ∀ x, decodeWord w = .ok (.ldDT x) → t.dt = s.reg x) ∧
    (s.pc.toNat ≤ 0xFFE → ∀ x, decodeWord w = .ok (.ldST x) → t.st = s.reg x) ∧
    (s.pc.toNat ≤ 0xFFE → ∀ x, decodeWord w = .ok (.ldVxDT x) → (t.reg x).toNat = s.dt.toNat - total / 16667)

/-- Elapsed time adds up without drift (R259): two timer phases with parts of a time do what one does with their sum. -/
def Obligations.ElapsedTimeAddsUp : Prop :=
  ∀ (s : State) (e₁ e₂ : BitVec 32), e₁.toNat + e₂.toNat < 2 ^ 32 →
    timerTick e₂ (timerTick e₁ s) = timerTick (e₁ + e₂) s

/-! ## Invariants, creation -/

/-- Every step keeps the invariants of 10_state section 15, the quirk flag and the canonical form of memory, which is the model's own (log
entry 15). Of the bounds, that of `pc` rests on the spec's own decision D24, that of I on D15, D21 and D26, the fault record on D14. -/
def Obligations.StepKeepsInvariant : Prop :=
  ∀ s t : State, s.Inv → step s = .next t → t.Inv ∧ t.quirk = s.quirk

/-- The state after reset meets the invariants. Its zeros and its `pc` are the spec's own decisions D3 and D4 (log entry 4). -/
def Obligations.ResetMeetsInvariant : Prop := State.reset.Inv

/-- Every machine that creation makes meets the invariants, runs, and starts at 0x200. The entry point is the spec's own decision D4; that
HALTED is false and I, ACC, SP and the fault record are 0, within their bounds, its decision D3 (log entry 4). -/
def Obligations.CreationMeetsInvariant : Prop :=
  ∀ (program : List Byte) (quirk : Bool) (s : State), create program quirk = .next s →
    s.Inv ∧ s.halted = false ∧ s.pc = 0x200

/-- Creation puts byte `i` of the program at 0x200 + `i` and byte `i` of FONT at 0x050 + `i`, and leaves the rest of memory zero
(10_state sections 2 and 14). FONT is an open parameter of the spec, here a free value, so this holds for every font (log entry 3). -/
def Obligations.CreationLoadsProgram : Prop :=
  ∀ (program : List Byte) (quirk : Bool), program.length ≤ 3584 →
    ∃ s, create program quirk = .next s ∧
      (∀ (i : Nat) (h : i < program.length), s.mem.read (0x200 + i) = program[i]) ∧
      (∀ (i : Nat) (h : i < 80), s.mem.read (0x050 + i) = Config.font[i]) ∧
      (∀ a : Nat, a < 0x050 ∨ 0x09F < a → a < 0x200 ∨ 0x200 + program.length ≤ a → s.mem.read a = 0)

/-- The rest of the state after creation: the display clear and the quirk flag as given, which the source states; `pc` at 0x200, the
spec's own decision D4; and the zeros of its decision D3, the call stack and HALTED among them (log entry 4). -/
def Obligations.CreationStartsFromZero : Prop :=
  ∀ (program : List Byte) (quirk : Bool) (s : State), create program quirk = .next s →
    (∀ r c, s.pixel r c = false) ∧ s.quirk = quirk ∧ s.pc = 0x200 ∧ (∀ x, s.reg x = 0) ∧ s.index = 0 ∧
    (∀ k : Fin 64, s.stack[k.val] = 0) ∧ s.sp = 0 ∧ s.dt = 0 ∧ s.st = 0 ∧ s.acc = 0 ∧
    (∀ k : Fin 16, s.keyPrev[k.val] = false) ∧ s.halted = false ∧ s.faultCode = 0 ∧ s.faultAddr = 0 ∧ s.faultInfo = 0

/-- In the first step after creation an Fx0A at 0x200 blocks, whatever the inputs of the step are (70_reset_and_hazards section 2): KEY_PREV
starts all false, which is the spec's own decision D3 (log entry 4); its latch is decision D10, and `supply` the model's, log entry 1. -/
def Obligations.FirstKeyWaitBlocks : Prop :=
  ∀ (program : List Byte) (quirk : Bool) (s : State) (x : Nibble) (i : Inputs), create program quirk = .next s →
    decodeWord (readWord s.mem 0x200) = .ok (.ldVxK x) →
    ∃ t, step (s.supply i) = .next t ∧ t.pc = 0x200 ∧ SameRegsBut [] s t ∧ SameMemory s t ∧ t.halted = false ∧ t.keyPrev = i.keyNow

/-- Creation refuses a program of more than 3584 bytes. Decision D19 of the spec. -/
def Obligations.CreationRefusesLongProgram : Prop :=
  ∀ (program : List Byte) (quirk : Bool), 3584 < program.length → create program quirk = .refused .programTooLong

/-! ## Memory -/

/-- Canonical memories that read alike are equal data. The form is the model's own, log entry 15. -/
def Obligations.MemoryIsItsReads : Prop :=
  ∀ m m' : Memory, m.wf = true → m'.wf = true → (∀ a, m.read a = m'.read a) → m = m'

/-- Only Fx33 and Fx55 change memory, and they change no byte but the ones they store (20_memory section 3). -/
def Obligations.OnlyStoresChangeMemory : Prop :=
  ∀ (i : Instr) (s t : State), exec i s = .next t →
    match i with
    | .ldB _ => SameMemoryOutside s.index.toNat 3 s t
    | .storeRegs x => SameMemoryOutside s.index.toNat (x.toNat + 1) s t
    | _ => SameMemory s t

/-- Each other piece of state has its own writers and no more: the display 00E0 and Dxyn, the call stack 2nnn and 00EE, the index
register Annn, Fx1E, Fx29, Fx55 and Fx65, the delay timer Fx15, the sound timer Fx18; no instruction writes the accumulator, the
previous snapshot or the quirk flag. That the latch writes the previous snapshot, and no instruction, is the spec's own decision D10. -/
def Obligations.EachPieceHasItsWriters : Prop :=
  ∀ (i : Instr) (s t : State), exec i s = .next t →
    (i ≠ .cls → (∀ x y n, i ≠ .drw x y n) → t.disp = s.disp) ∧
    (i ≠ .ret → (∀ nnn, i ≠ .call nnn) → t.stack = s.stack ∧ t.sp = s.sp) ∧
    ((∀ nnn, i ≠ .ldI nnn) → (∀ x, i ≠ .addI x ∧ i ≠ .ldF x ∧ i ≠ .storeRegs x ∧ i ≠ .loadRegs x) → t.index = s.index) ∧
    ((∀ x, i ≠ .ldDT x) → t.dt = s.dt) ∧ ((∀ x, i ≠ .ldST x) → t.st = s.st) ∧
    t.acc = s.acc ∧ t.keyPrev = s.keyPrev ∧ t.quirk = s.quirk

/-- No instruction outside the list of 10_state section 3 writes VF, unless VF is its ordinary destination. Three clauses rest on the
spec's own decisions (log entry 6): that the flag, 0 or 1, is what remains after 8xy4 to 8xy7 and 8xyE with x = F is D5; that Fx55 and
Fx65 leave VF alone where I wraps is D15; that Fx1E leaves it alone up to a sum of 4095 is D26 (conflict C12). -/
def Obligations.VFHasItsWriters : Prop :=
  ∀ (i : Instr) (s t : State), exec i s = .next t →
    match i with
    | .ldImm x _ | .addImm x _ | .ldReg x _ | .rnd x _ | .ldVxDT x | .ldVxK x => x ≠ 0xF → t.reg 0xF = s.reg 0xF
    | .or x _ | .and x _ | .xor x _ => s.quirk = false → x ≠ 0xF → t.reg 0xF = s.reg 0xF
    | .addI x => s.index.toNat + (s.reg x).toNat < 4096 → t.reg 0xF = s.reg 0xF
    | .drw _ _ _ => s.now.renderJustHappened = false → t.reg 0xF = s.reg 0xF
    | .loadRegs x => x ≠ 0xF → t.reg 0xF = s.reg 0xF
    | .addReg _ _ | .subReg _ _ | .subn _ _ | .shr _ _ | .shl _ _ => t.reg 0xF = 0 ∨ t.reg 0xF = 1
    | _ => t.reg 0xF = s.reg 0xF

/-! ## What instructions cannot tell apart -/

/-- The quirk flag changes nothing but 8xy1, 8xy2, 8xy3, 8xy6, 8xyE, Fx55 and Fx65: every other instruction does the same under both
settings. -/
def Obligations.QuirkChangesOnlySeven : Prop :=
  ∀ (i : Instr) (s t : State) (q : Bool),
    (∀ x y, i ≠ .or x y ∧ i ≠ .and x y ∧ i ≠ .xor x y ∧ i ≠ .shr x y ∧ i ≠ .shl x y) →
    (∀ x, i ≠ .storeRegs x ∧ i ≠ .loadRegs x) → exec i s = .next t →
    exec i { s with quirk := q } = .next { t with quirk := q }

/-- No instruction reads the sound timer or the accumulator: with other values in them every instruction does the same, except that
Fx18 overwrites the sound timer. -/
def Obligations.SoundTimerAndAccumulatorAreNeverRead : Prop :=
  ∀ (i : Instr) (s t : State) (b : Byte) (a : BitVec 64), exec i s = .next t →
    exec i { s with st := b, acc := a } =
      .next { t with st := (match i with | .ldST _ => t.st | _ => b), acc := a }

/-- The field `y` of 8xy6 and 8xyE: every value is accepted; with the quirk flag clear all sixteen do the same; with it set Vy is read, so
that two values of `y` can give different results (R99). -/
def Obligations.ShiftsIgnoreVyWithoutQuirk : Prop :=
  (∀ x y : Nibble, Encodes (.shr x y) (0x8006 + 0x100 * x.toNat + 0x10 * y.toNat) ∧
    Encodes (.shl x y) (0x800E + 0x100 * x.toNat + 0x10 * y.toNat)) ∧
  (∀ (x y y' : Nibble) (s : State), s.quirk = false →
    exec (.shr x y) s = exec (.shr x y') s ∧ exec (.shl x y) s = exec (.shl x y') s) ∧
  (∀ (x y y' : Nibble) (s : State), s.quirk = true → x ≠ 0xF → (s.reg y).toNat / 2 ≠ (s.reg y').toNat / 2 →
    exec (.shr x y) s ≠ exec (.shr x y') s) ∧
  (∀ (x y y' : Nibble) (s : State), s.quirk = true → x ≠ 0xF → (s.reg y).toNat % 128 ≠ (s.reg y').toNat % 128 →
    exec (.shl x y) s ≠ exec (.shl x y') s)

/-! ## Control flow -/

/-- 1nnn has the word 0x1nnn, sets `pc` to `nnn` and changes nothing else (R132). -/
def Obligations.JumpSetsPc : Prop :=
  ∀ (nnn : Addr12) (s : State), Encodes (.jp nnn) (0x1000 + nnn.toNat) ∧ ∃ t, exec (.jp nnn) s = .next t ∧ t.pc.toNat = nnn.toNat ∧ OnlyPc s t

/-- Bnnn sets `pc` to `nnn + V0`, which is not reduced modulo 4096. Not reducing is the spec's decision D24. -/
def Obligations.JumpV0AddsWithoutWrap : Prop :=
  ∀ (nnn : Addr12) (s : State),
    ∃ t, exec (.jpV0 nnn) s = .next t ∧ t.pc.toNat = nnn.toNat + (s.reg 0).toNat ∧ OnlyPc s t

/-- 2nnn pushes the address after the call and jumps; with 64 entries in use it raises StackOverflow and pushes nothing (R133, R243).
The record is the spec's own decision D14. -/
def Obligations.CallPushesReturnAddress : Prop :=
  ∀ (nnn : Addr12) (s : State),
    (∀ h : s.sp.val < 64, ∃ t, exec (.call nnn) s = .next t ∧ t.pc.toNat = nnn.toNat ∧ t.sp.val = s.sp.val + 1 ∧
      t.stack = s.stack.set s.sp.val s.pc h ∧ t = { s with pc := t.pc, sp := t.sp, stack := t.stack }) ∧
    (s.sp.val = 64 → ∃ t, exec (.call nnn) s = .next t ∧
      Raised .stackOverflow (s.pc - 2) (BitVec.ofNat 16 (0x2000 + nnn.toNat)) s t)

/-- 00EE sets `pc` to the newest stack entry and takes it off; with no entry in use it raises StackUnderflow (R131, R244). The
record is the spec's own decision D14. -/
def Obligations.ReturnPopsNewestEntry : Prop :=
  ∀ s : State,
    (∀ h : s.sp.val - 1 < 64, 0 < s.sp.val → ∃ t, exec .ret s = .next t ∧ t.pc = s.stack[s.sp.val - 1] ∧
      t.sp.val = s.sp.val - 1 ∧ t = { s with pc := t.pc, sp := t.sp }) ∧
    (s.sp.val = 0 → ∃ t, exec .ret s = .next t ∧ Raised .stackUnderflow (s.pc - 2) 0x00EE s t)

/-- A call followed by a return, in the state the call leaves with `pc` advanced past the return, comes back to the address after the
call with the stack depth as before (R131 to R133). -/
def Obligations.ReturnUndoesCall : Prop :=
  ∀ (nnn : Addr12) (s t u : State), s.sp.val < 64 → exec (.call nnn) s = .next t → exec .ret t.advance = .next u →
    u.pc = s.pc ∧ u.sp = s.sp ∧ u.halted = s.halted

/-- The four skips compare for equality and skip one instruction of two bytes, and write nothing else (R134 to R137). -/
def Obligations.SkipsCompareForEquality : Prop :=
  ∀ (x y : Nibble) (nn : Byte) (s : State),
    Encodes (.seImm x nn) (0x3000 + 0x100 * x.toNat + nn.toNat) ∧
    Encodes (.sneImm x nn) (0x4000 + 0x100 * x.toNat + nn.toNat) ∧
    Encodes (.seReg x y) (0x5000 + 0x100 * x.toNat + 0x10 * y.toNat) ∧
    Encodes (.sneReg x y) (0x9000 + 0x100 * x.toNat + 0x10 * y.toNat) ∧
    (∃ t, exec (.seImm x nn) s = .next t ∧ t.pc = (if s.reg x = nn then s.pc + 2 else s.pc) ∧ OnlyPc s t) ∧
    (∃ t, exec (.sneImm x nn) s = .next t ∧ t.pc = (if s.reg x = nn then s.pc else s.pc + 2) ∧ OnlyPc s t) ∧
    (∃ t, exec (.seReg x y) s = .next t ∧ t.pc = (if s.reg x = s.reg y then s.pc + 2 else s.pc) ∧ OnlyPc s t) ∧
    (∃ t, exec (.sneReg x y) s = .next t ∧ t.pc = (if s.reg x = s.reg y then s.pc else s.pc + 2) ∧ OnlyPc s t)

/-! ## Registers, arithmetic, logic -/

/-- 6xnn and 8xy0 load Vx, 7xnn adds modulo 256; no other register is written, VF included, unless it is Vx (R151 to R153). -/
def Obligations.LoadsAndImmediateAdd : Prop :=
  ∀ (x y : Nibble) (nn : Byte) (s : State),
    Encodes (.ldImm x nn) (0x6000 + 0x100 * x.toNat + nn.toNat) ∧
    Encodes (.addImm x nn) (0x7000 + 0x100 * x.toNat + nn.toNat) ∧
    Encodes (.ldReg x y) (0x8000 + 0x100 * x.toNat + 0x10 * y.toNat) ∧
    (∃ t, exec (.ldImm x nn) s = .next t ∧ t.reg x = nn ∧ OnlyRegs [x] s t) ∧
    (∃ t, exec (.ldReg x y) s = .next t ∧ t.reg x = s.reg y ∧ OnlyRegs [x] s t) ∧
    (∃ t, exec (.addImm x nn) s = .next t ∧ (t.reg x).toNat = ((s.reg x).toNat + nn.toNat) % 256 ∧ OnlyRegs [x] s t)

/-- The logic instructions are bitwise on all eight bits, and then, with the quirk flag set, VF is 0 (42_alu section 3). That VF is 0 also
when x = F, the result being lost, is the spec's own decision D5 (R163; log entry 6). -/
def Obligations.LogicIsBitwiseThenQuirkClearsVF : Prop :=
  ∀ (x y : Nibble) (s : State) (op : Bool → Bool → Bool) (n : Nat) (i : Instr),
    ((i = .or x y ∧ op = Bool.or ∧ n = 1) ∨ (i = .and x y ∧ op = Bool.and ∧ n = 2) ∨ (i = .xor x y ∧ op = Bool.xor ∧ n = 3)) →
    Encodes i (0x8000 + 0x100 * x.toNat + 0x10 * y.toNat + n) ∧ ∃ t, exec i s = .next t ∧
      ((x ≠ 0xF ∨ s.quirk = false) → ∀ b, b < 8 → (t.reg x).getLsbD b = op ((s.reg x).getLsbD b) ((s.reg y).getLsbD b)) ∧
      (s.quirk = true → t.reg 0xF = 0 ∧ OnlyRegs [x, 0xF] s t) ∧ (s.quirk = false → OnlyRegs [x] s t)

/-- 8xy4: the sum modulo 256 in Vx, then the carry in VF; with x = F the carry remains (R157), which is decision D5. -/
def Obligations.AddWrapsAndCarries : Prop :=
  ∀ (x y : Nibble) (s : State), ∃ t, exec (.addReg x y) s = .next t ∧
    (x ≠ 0xF → (t.reg x).toNat = ((s.reg x).toNat + (s.reg y).toNat) % 256) ∧
    t.reg 0xF = (if (s.reg x).toNat + (s.reg y).toNat > 255 then 1 else 0) ∧ OnlyRegs [x, 0xF] s t

/-- 8xy5 and 8xy7: the difference modulo 256 in Vx, then VF = 0 on a borrow, else 1; with x = F the flag remains (R158, R160), decision D5. -/
def Obligations.SubtractsWrapAndBorrow : Prop :=
  ∀ (x y : Nibble) (s : State),
    (∃ t, exec (.subReg x y) s = .next t ∧
      (x ≠ 0xF → ((t.reg x).toNat : Int) = ((s.reg x).toNat - (s.reg y).toNat : Int) % 256) ∧
      t.reg 0xF = (if (s.reg x).toNat < (s.reg y).toNat then 0 else 1) ∧ OnlyRegs [x, 0xF] s t) ∧
    (∃ t, exec (.subn x y) s = .next t ∧
      (x ≠ 0xF → ((t.reg x).toNat : Int) = ((s.reg y).toNat - (s.reg x).toNat : Int) % 256) ∧
      t.reg 0xF = (if (s.reg y).toNat < (s.reg x).toNat then 0 else 1) ∧ OnlyRegs [x, 0xF] s t)

/-- 8xy6 and 8xyE: the value shifted is Vy with the quirk flag set, else Vx; it moves one bit, a zero comes in, and VF is the bit that
left; with x = F the flag remains (R159, R161), which is decision D5. -/
def Obligations.ShiftsMoveOneBit : Prop :=
  ∀ (x y : Nibble) (s : State) (v : Byte), v = (if s.quirk = true then s.reg y else s.reg x) →
    (∃ t, exec (.shr x y) s = .next t ∧ (x ≠ 0xF → (t.reg x).toNat = v.toNat / 2) ∧
      (t.reg 0xF).toNat = v.toNat % 2 ∧ OnlyRegs [x, 0xF] s t) ∧
    (∃ t, exec (.shl x y) s = .next t ∧ (x ≠ 0xF → (t.reg x).toNat = v.toNat * 2 % 256) ∧
      (t.reg 0xF).toNat = v.toNat / 128 ∧ OnlyRegs [x, 0xF] s t)

/-- Cxnn: the step's random byte, whatever it is, masked by `nn`; no flag (R162). -/
def Obligations.RandomByteIsMasked : Prop :=
  ∀ (x : Nibble) (nn : Byte) (s : State), Encodes (.rnd x nn) (0xC000 + 0x100 * x.toNat + nn.toNat) ∧
    ∃ t, exec (.rnd x nn) s = .next t ∧
    (∀ b, b < 8 → (t.reg x).getLsbD b = (s.now.rnd.getLsbD b && nn.getLsbD b)) ∧ OnlyRegs [x] s t

/-! ## Index register and memory transfer -/

/-- Annn sets I to `nnn` (R181). -/
def Obligations.LoadIndexSetsI : Prop :=
  ∀ (nnn : Addr12) (s : State), Encodes (.ldI nnn) (0xA000 + nnn.toNat) ∧
    ∃ t, exec (.ldI nnn) s = .next t ∧ t.index.toNat = nnn.toNat ∧ OnlyIndexAndRegs [] s t

/-- Fx1E: a sum of 4096 or more is reduced modulo 4096 and sets VF, a smaller one leaves VF alone; Vx is read before VF is written.
The boundary 4096 follows the opcode table (conflict C12, decision D26). -/
def Obligations.AddIndexWrapsAtTwelveBits : Prop :=
  ∀ (x : Nibble) (s : State),
    (s.index.toNat + (s.reg x).toNat < 4096 → ∃ t, exec (.addI x) s = .next t ∧
      t.index.toNat = s.index.toNat + (s.reg x).toNat ∧ OnlyIndexAndRegs [] s t) ∧
    (4096 ≤ s.index.toNat + (s.reg x).toNat → ∃ t, exec (.addI x) s = .next t ∧
      t.index.toNat = (s.index.toNat + (s.reg x).toNat) % 4096 ∧ t.reg 0xF = 1 ∧ OnlyIndexAndRegs [0xF] s t)

/-- Fx29: I is 0x50 plus five times the whole of Vx. Not masking Vx is the spec's decision D21. -/
def Obligations.GlyphAddressUsesWholeVx : Prop :=
  ∀ (x : Nibble) (s : State), ∃ t, exec (.ldF x) s = .next t ∧
    t.index.toNat = 0x50 + 5 * (s.reg x).toNat ∧ OnlyIndexAndRegs [] s t

/-- Fx33 writes the hundreds, tens and units digits of Vx at I, I + 1 and I + 2, one byte each, and changes no other byte and nothing
else. -/
def Obligations.BcdWritesThreeDigits : Prop :=
  ∀ (x : Nibble) (s : State), s.index.toNat + 2 ≤ 0xFFF → ∃ t, exec (.ldB x) s = .next t ∧
    (t.mem.read s.index.toNat).toNat = (s.reg x).toNat / 100 ∧
    (t.mem.read (s.index.toNat + 1)).toNat = (s.reg x).toNat / 10 % 10 ∧
    (t.mem.read (s.index.toNat + 2)).toNat = (s.reg x).toNat % 10 ∧
    SameMemoryOutside s.index.toNat 3 s t ∧ t = { s with mem := t.mem }

/-- Fx55 stores V0 to Vx at I onwards and changes no other byte; with the quirk flag set I moves by x + 1 modulo 4096, else it stays.
The reduction at 4096 is the spec's decision D15. -/
def Obligations.StoreRegistersWritesInOrder : Prop :=
  ∀ (x : Nibble) (s : State), s.index.toNat + x.toNat ≤ 0xFFF → ∃ t, exec (.storeRegs x) s = .next t ∧
    (∀ r : Nibble, r.toNat ≤ x.toNat → t.mem.read (s.index.toNat + r.toNat) = s.reg r) ∧
    SameMemoryOutside s.index.toNat (x.toNat + 1) s t ∧
    t.index.toNat = (if s.quirk = true then (s.index.toNat + x.toNat + 1) % 4096 else s.index.toNat) ∧
    t = { s with mem := t.mem, index := t.index }

/-- Fx65 loads V0 to Vx from I onwards and leaves the registers above Vx and all of memory; I moves as for Fx55 (decision D15). -/
def Obligations.LoadRegistersReadsInOrder : Prop :=
  ∀ (x : Nibble) (s : State), s.index.toNat + x.toNat ≤ 0xFFF → ∃ t, exec (.loadRegs x) s = .next t ∧
    (∀ r : Nibble, r.toNat ≤ x.toNat → t.reg r = s.mem.read (s.index.toNat + r.toNat)) ∧
    (∀ r : Nibble, x.toNat < r.toNat → t.reg r = s.reg r) ∧ SameMemory s t ∧
    t.index.toNat = (if s.quirk = true then (s.index.toNat + x.toNat + 1) % 4096 else s.index.toNat) ∧
    t = { s with v := t.v, index := t.index }

/-- What Fx55 stored, Fx65 loads back into V0 to Vx, whatever the registers held in between, when I stands where it stood. -/
def Obligations.LoadInvertsStore : Prop :=
  ∀ (x : Nibble) (s t u : State) (v : RegFile), s.index.toNat + x.toNat ≤ 0xFFF → exec (.storeRegs x) s = .next t →
    exec (.loadRegs x) { t with v := v, index := s.index } = .next u → ∀ r : Nibble, r.toNat ≤ x.toNat → u.reg r = s.reg r

/-- A store is seen by the fetch: once Fx55 has stored registers over the two bytes at an address, the word there is those registers. -/
def Obligations.StoredWordIsFetched : Prop :=
  ∀ (x r r' : Nibble) (s t : State), s.index.toNat + x.toNat ≤ 0xFFF → r.toNat ≤ x.toNat → r'.toNat ≤ x.toNat →
    r'.toNat = r.toNat + 1 → exec (.storeRegs x) s = .next t →
    fetch { t with pc := BitVec.ofNat 16 (s.index.toNat + r.toNat) } = some (wordOfBytes (s.reg r) (s.reg r'))

/-- A data access above 0xFFF raises DataAddressOutOfBounds with the highest address and changes nothing else: Fx33, Fx55, Fx65 and an
executing Dxyn that draws at least one row. The spec's own decisions: D7, the record D14, the rows a Dxyn reads D25, row 0 for y = F D6. -/
def Obligations.DataAccessAboveMemoryRaises : Prop :=
  ∀ (i : Instr) (s : State) (h : Nat), 0xFFF < h →
    ((∃ x, i = .ldB x ∧ h = s.index.toNat + 2) ∨
     (∃ x, (i = .storeRegs x ∨ i = .loadRegs x) ∧ h = s.index.toNat + x.toNat) ∨
     (∃ x y n, i = .drw x y n ∧ s.now.renderJustHappened = true ∧ 1 ≤ n.toNat ∧
       h = s.index.toNat + min n.toNat (32 - (if y = 0xF then 0 else (s.reg y).toNat) % 32) - 1)) →
    ∃ t, exec i s = .next t ∧ Raised .dataAddressOutOfBounds (s.pc - 2) (BitVec.ofNat 16 h) s t

/-! ## Display -/

/-- 00E0 makes every pixel false, waits for nothing, writes no flag (R200). -/
def Obligations.ClearMakesEveryPixelFalse : Prop :=
  ∀ s : State, Encodes .cls 0x00E0 ∧ ∃ t, exec .cls s = .next t ∧ (∀ r c, t.pixel r c = false) ∧ SameMemory s t ∧ t = { s with disp := t.disp }

/-- Dxyn that executes exchanges exactly the pixels under the sprite's set bits, with the origin wrapped and everything else clipped, and
sets VF to 1 exactly when it met a set pixel, else to 0; a coordinate register that is VF reads 0. Memory, I, `pc` and the other
registers stay. Reading VF as 0 and checking the rows drawn are the spec's decisions D6 and D25. -/
def Obligations.DrawIsXorWithClipping : Prop :=
  ∀ (x y n : Nibble) (s : State), s.now.renderJustHappened = true →
    let vx := if x = 0xF then 0 else (s.reg x).toNat
    let vy := if y = 0xF then 0 else (s.reg y).toNat
    (n.toNat = 0 ∨ s.index.toNat + min n.toNat (32 - vy % 32) - 1 ≤ 0xFFF) →
    ∃ t, exec (.drw x y n) s = .next t ∧
      (∀ r c, r < 32 → c < 64 → (t.pixel r c = true ↔ ¬ (s.pixel r c = true ↔ SpriteBit s vx vy n.toNat r c))) ∧
      ((∃ r c, r < 32 ∧ c < 64 ∧ s.pixel r c = true ∧ SpriteBit s vx vy n.toNat r c) → t.reg 0xF = 1) ∧
      ((¬ ∃ r c, r < 32 ∧ c < 64 ∧ s.pixel r c = true ∧ SpriteBit s vx vy n.toNat r c) → t.reg 0xF = 0) ∧
      SameRegsBut [0xF] s t ∧ SameMemory s t ∧ t = { s with disp := t.disp, v := t.v }

/-- Drawing the same sprite at the same place twice restores the display (44_display R205). That a Dxyn with x = F or y = F draws twice at
one place is the spec's own decision D6, and that a draw out of bounds leaves the display alone its decisions D7 and D25 (log entry 6). -/
def Obligations.DrawTwiceRestoresDisplay : Prop :=
  ∀ (x y n : Nibble) (s t u : State), exec (.drw x y n) s = .next t → exec (.drw x y n) t = .next u → u.disp = s.disp

/-! ## Keypad and timers -/

/-- Ex9E and ExA1 test the key Vx of the current snapshot; an index above 15 raises KeyIndexOutOfRange and is not masked (decision D8;
the record: D14). -/
def Obligations.KeySkipsTestCurrentSnapshot : Prop :=
  ∀ (x : Nibble) (s : State),
    (∀ h : (s.reg x).toNat < 16,
      (∃ t, exec (.skp x) s = .next t ∧ t.pc = (if s.now.keyNow[(s.reg x).toNat] = true then s.pc + 2 else s.pc) ∧ OnlyPc s t) ∧
      (∃ t, exec (.sknp x) s = .next t ∧ t.pc = (if s.now.keyNow[(s.reg x).toNat] = true then s.pc else s.pc + 2) ∧ OnlyPc s t)) ∧
    (15 < (s.reg x).toNat →
      (∃ t, exec (.skp x) s = .next t ∧ Raised .keyIndexOutOfRange (s.pc - 2) (BitVec.ofNat 16 (s.reg x).toNat) s t) ∧
      (∃ t, exec (.sknp x) s = .next t ∧ Raised .keyIndexOutOfRange (s.pc - 2) (BitVec.ofNat 16 (s.reg x).toNat) s t))

/-- Fx0A stores the index of a key with a release edge in this step, whichever of them is picked, and goes on; with no edge it rewinds `pc` to
itself and changes nothing else (R218). Which of several keys is left open: decision D9, log entry 2. -/
def Obligations.KeyWaitTakesAReleaseEdge : Prop :=
  ∀ (x : Nibble) (s : State),
    ((∃ k, ReleaseEdge s k) → ∃ t, exec (.ldVxK x) s = .next t ∧ (∃ k : Fin 16, ReleaseEdge s k ∧ (t.reg x).toNat = k.val) ∧
      OnlyRegs [x] s t) ∧
    ((¬ ∃ k, ReleaseEdge s k) → ∃ t, exec (.ldVxK x) s = .next t ∧ t.pc = s.pc - 2 ∧ OnlyPc s t)

/-- Fx07 reads the delay timer into Vx, Fx15 and Fx18 write the delay and the sound timer from Vx; nothing else changes (R219 to R221). -/
def Obligations.TimerInstructionsMoveTimers : Prop :=
  ∀ (x : Nibble) (s : State),
    (∃ t, exec (.ldVxDT x) s = .next t ∧ t.reg x = s.dt ∧ OnlyRegs [x] s t) ∧
    (∃ t, exec (.ldDT x) s = .next t ∧ t.dt = s.reg x ∧ SameMemory s t ∧ t = { s with dt := t.dt }) ∧
    (∃ t, exec (.ldST x) s = .next t ∧ t.st = s.reg x ∧ SameMemory s t ∧ t = { s with st := t.st })
end

