-- ==== Sys2Proof/Laws/Encoding.lean ====
section
/-!
SUPPORT. The fields of the three formats (30_encoding R91, R92) as numbers, and words as bytes.
-/

namespace Sys2Proof

/-- Every instruction is well formed: the operand types are as wide as the fields. -/
theorem Instr.wellFormed_all (i : Instr) : i.wellFormed = true := by
  have fits : ∀ {w : Nat} (v : BitVec w), (Operand.ofField v).fits = true := fun v => decide_eq_true v.isLt
  cases i <;> simp only [Instr.wellFormed, Instr.operands, List.all_cons, List.all_nil, fits, Bool.and_self]

/-! ## Fields as numbers -/

theorem toNat_append_eq {a b : Nat} (x : BitVec a) (y : BitVec b) : (x ++ y).toNat = x.toNat * 2 ^ b + y.toNat := by
  rw [BitVec.toNat_append, Nat.shiftLeft_eq, Nat.mul_comm, Nat.two_pow_add_eq_or_of_lt y.isLt]

theorem opField_toNat (w : Word) : (opField w).toNat = w.toNat / 4096 := by
  have := w.isLt
  simp [opField, BitVec.extractLsb'_toNat, Nat.shiftRight_eq_div_pow]; omega

theorem xField_toNat (w : Word) : (xField w).toNat = w.toNat / 256 % 16 := by
  simp [xField, BitVec.extractLsb'_toNat, Nat.shiftRight_eq_div_pow]

theorem yField_toNat (w : Word) : (yField w).toNat = w.toNat / 16 % 16 := by
  simp [yField, BitVec.extractLsb'_toNat, Nat.shiftRight_eq_div_pow]

theorem nField_toNat (w : Word) : (nField w).toNat = w.toNat % 16 := by
  simp [nField, BitVec.extractLsb'_toNat]

theorem nnField_toNat (w : Word) : (nnField w).toNat = w.toNat % 256 := by
  simp [nnField, BitVec.extractLsb'_toNat]

theorem nnnField_toNat (w : Word) : (nnnField w).toNat = w.toNat % 4096 := by
  simp [nnnField, BitVec.extractLsb'_toNat]

/-! ## Formats as numbers -/

theorem formatNNN_toNat (op : Nibble) (nnn : Addr12) : (formatNNN op nnn).toNat = op.toNat * 4096 + nnn.toNat :=
  toNat_append_eq op nnn

theorem formatXNN_toNat (op x : Nibble) (nn : Byte) :
    (formatXNN op x nn).toNat = op.toNat * 4096 + x.toNat * 256 + nn.toNat := by
  have h : (formatXNN op x nn).toNat = (op ++ x).toNat * 256 + nn.toNat := toNat_append_eq (op ++ x) nn
  have h2 : (op ++ x).toNat = op.toNat * 16 + x.toNat := toNat_append_eq op x
  rw [h, h2, Nat.add_mul, Nat.mul_assoc]

theorem formatXYN_toNat (op x y n : Nibble) :
    (formatXYN op x y n).toNat = op.toNat * 4096 + x.toNat * 256 + y.toNat * 16 + n.toNat := by
  have h : (formatXYN op x y n).toNat = (op ++ x ++ y).toNat * 16 + n.toNat := toNat_append_eq (op ++ x ++ y) n
  have h2 : (op ++ x ++ y).toNat = (op ++ x).toNat * 16 + y.toNat := toNat_append_eq (op ++ x) y
  have h3 : (op ++ x).toNat = op.toNat * 16 + x.toNat := toNat_append_eq op x
  rw [h, h2, h3]
  simp only [Nat.add_mul, Nat.mul_assoc, Nat.reduceMul]

/-! ## Format NNN -/

@[simp] theorem opField_formatNNN (op : Nibble) (nnn : Addr12) : opField (formatNNN op nnn) = op := by
  apply BitVec.eq_of_toNat_eq; rw [opField_toNat, formatNNN_toNat]; omega

@[simp] theorem nnnField_formatNNN (op : Nibble) (nnn : Addr12) : nnnField (formatNNN op nnn) = nnn := by
  apply BitVec.eq_of_toNat_eq; rw [nnnField_toNat, formatNNN_toNat]; omega

/-! ## Format XNN, and format X with a fixed `nn` -/

@[simp] theorem opField_formatXNN (op x : Nibble) (nn : Byte) : opField (formatXNN op x nn) = op := by
  apply BitVec.eq_of_toNat_eq; rw [opField_toNat, formatXNN_toNat]; omega

@[simp] theorem xField_formatXNN (op x : Nibble) (nn : Byte) : xField (formatXNN op x nn) = x := by
  apply BitVec.eq_of_toNat_eq; rw [xField_toNat, formatXNN_toNat]; omega

@[simp] theorem nnField_formatXNN (op x : Nibble) (nn : Byte) : nnField (formatXNN op x nn) = nn := by
  apply BitVec.eq_of_toNat_eq; rw [nnField_toNat, formatXNN_toNat]; omega

/-! ## Format XYN, and format XY with a fixed `n` -/

@[simp] theorem opField_formatXYN (op x y n : Nibble) : opField (formatXYN op x y n) = op := by
  apply BitVec.eq_of_toNat_eq; rw [opField_toNat, formatXYN_toNat]; omega

@[simp] theorem xField_formatXYN (op x y n : Nibble) : xField (formatXYN op x y n) = x := by
  apply BitVec.eq_of_toNat_eq; rw [xField_toNat, formatXYN_toNat]; omega

@[simp] theorem yField_formatXYN (op x y n : Nibble) : yField (formatXYN op x y n) = y := by
  apply BitVec.eq_of_toNat_eq; rw [yField_toNat, formatXYN_toNat]; omega

@[simp] theorem nField_formatXYN (op x y n : Nibble) : nField (formatXYN op x y n) = n := by
  apply BitVec.eq_of_toNat_eq; rw [nField_toNat, formatXYN_toNat]; omega

/-! ## A word is its fields -/

theorem formatNNN_fields (w : Word) : formatNNN (opField w) (nnnField w) = w := by
  apply BitVec.eq_of_toNat_eq; rw [formatNNN_toNat, opField_toNat, nnnField_toNat]; omega

theorem formatXNN_fields (w : Word) : formatXNN (opField w) (xField w) (nnField w) = w := by
  apply BitVec.eq_of_toNat_eq; rw [formatXNN_toNat, opField_toNat, xField_toNat, nnField_toNat]; omega

theorem formatXYN_fields (w : Word) : formatXYN (opField w) (xField w) (yField w) (nField w) = w := by
  apply BitVec.eq_of_toNat_eq; rw [formatXYN_toNat, opField_toNat, xField_toNat, yField_toNat, nField_toNat]; omega

/-! ## A word is its two bytes (20_memory R66) -/

theorem wordOfBytes_toNat (h l : Byte) : (wordOfBytes h l).toNat = h.toNat * 256 + l.toNat := toNat_append_eq h l

theorem highByte_toNat (w : Word) : (highByte w).toNat = w.toNat / 256 := by
  have := w.isLt
  simp [highByte, BitVec.extractLsb'_toNat, Nat.shiftRight_eq_div_pow]; omega

theorem lowByte_toNat (w : Word) : (lowByte w).toNat = w.toNat % 256 := by
  simp [lowByte, BitVec.extractLsb'_toNat]

@[simp] theorem wordOfBytes_bytes (w : Word) : wordOfBytes (highByte w) (lowByte w) = w := by
  apply BitVec.eq_of_toNat_eq; rw [wordOfBytes_toNat, highByte_toNat, lowByte_toNat]; omega

@[simp] theorem highByte_wordOfBytes (h l : Byte) : highByte (wordOfBytes h l) = h := by
  apply BitVec.eq_of_toNat_eq; rw [highByte_toNat, wordOfBytes_toNat]; omega

@[simp] theorem lowByte_wordOfBytes (h l : Byte) : lowByte (wordOfBytes h l) = l := by
  apply BitVec.eq_of_toNat_eq; rw [lowByte_toNat, wordOfBytes_toNat]; omega

/-! ## The three masks of the opcode map (R96) as numbers -/

theorem and_F000_toNat (w : Word) : (w &&& 0xF000#16).toNat = w.toNat / 4096 * 4096 := by
  have fields : w = opField w ++ nnnField w := (formatNNN_fields w).symm
  have masked : (opField w ++ nnnField w) &&& ((0xF : Nibble) ++ (0 : Addr12)) = opField w ++ (0 : Addr12) := by
    rw [BitVec.and_append]
    congr 1
    · exact BitVec.and_allOnes
    · exact BitVec.and_zero
  have cleared : w &&& 0xF000#16 = opField w ++ (0 : Addr12) := (congrArg (· &&& 0xF000#16) fields).trans masked
  rw [cleared, toNat_append_eq, opField_toNat]; simp

theorem and_000F_toNat (w : Word) : (w &&& 0x000F#16).toNat = w.toNat % 16 := by
  rw [BitVec.toNat_and]; exact Nat.and_two_pow_sub_one_eq_mod w.toNat 4

theorem and_00FF_toNat (w : Word) : (w &&& 0x00FF#16).toNat = w.toNat % 256 := by
  rw [BitVec.toNat_and]; exact Nat.and_two_pow_sub_one_eq_mod w.toNat 8

theorem and_F00F_toNat (w : Word) : (w &&& 0xF00F#16).toNat = w.toNat / 4096 * 4096 + w.toNat % 16 := by
  have h : w &&& 0xF00F#16 = (w &&& 0xF000#16) ||| (w &&& 0x000F#16) := by rw [← BitVec.and_or_distrib_left]; rfl
  rw [h, BitVec.toNat_or, and_F000_toNat, and_000F_toNat, Nat.mul_comm]
  exact (Nat.two_pow_add_eq_or_of_lt (i := 12) (by omega) _).symm

theorem and_F0FF_toNat (w : Word) : (w &&& 0xF0FF#16).toNat = w.toNat / 4096 * 4096 + w.toNat % 256 := by
  have h : w &&& 0xF0FF#16 = (w &&& 0xF000#16) ||| (w &&& 0x00FF#16) := by rw [← BitVec.and_or_distrib_left]; rfl
  rw [h, BitVec.toNat_or, and_F000_toNat, and_00FF_toNat, Nat.mul_comm]
  exact (Nat.two_pow_add_eq_or_of_lt (i := 12) (by omega) _).symm

theorem and_FFFF (w : Word) : w &&& 0xFFFF#16 = w := BitVec.and_allOnes

end Sys2Proof
end

