-- ==== Sys2Proof/Laws/Decoding.lean ====
section
/-!
SUPPORT. Decoding family by family (30_encoding R94): a proof splits on the opcode family and cites one lemma, instead of
unfolding the decision procedure.
-/

namespace Sys2Proof

/-! ## One lemma per opcode family -/

theorem decodeWord_family0 {w : Word} (h : opField w = 0) : decodeWord w = decodeFamily0 w := by
  simp [decodeWord, h]

theorem decodeWord_family1 {w : Word} (h : opField w = 1) : decodeWord w = .ok (.jp (nnnField w)) := by
  simp [decodeWord, h]

theorem decodeWord_family2 {w : Word} (h : opField w = 2) : decodeWord w = .ok (.call (nnnField w)) := by
  simp [decodeWord, h]

theorem decodeWord_family3 {w : Word} (h : opField w = 3) : decodeWord w = .ok (.seImm (xField w) (nnField w)) := by
  simp [decodeWord, h]

theorem decodeWord_family4 {w : Word} (h : opField w = 4) : decodeWord w = .ok (.sneImm (xField w) (nnField w)) := by
  simp [decodeWord, h]

theorem decodeWord_family5 {w : Word} (h : opField w = 5) : decodeWord w = decodeIfZero (nField w) (.seReg (xField w) (yField w)) w := by
  simp [decodeWord, h]

theorem decodeWord_family6 {w : Word} (h : opField w = 6) : decodeWord w = .ok (.ldImm (xField w) (nnField w)) := by
  simp [decodeWord, h]

theorem decodeWord_family7 {w : Word} (h : opField w = 7) : decodeWord w = .ok (.addImm (xField w) (nnField w)) := by
  simp [decodeWord, h]

theorem decodeWord_family8 {w : Word} (h : opField w = 8) : decodeWord w = decodeFamily8 (xField w) (yField w) (nField w) w := by
  simp [decodeWord, h]

theorem decodeWord_family9 {w : Word} (h : opField w = 9) : decodeWord w = decodeIfZero (nField w) (.sneReg (xField w) (yField w)) w := by
  simp [decodeWord, h]

theorem decodeWord_familyA {w : Word} (h : opField w = 10) : decodeWord w = .ok (.ldI (nnnField w)) := by
  simp [decodeWord, h]

theorem decodeWord_familyB {w : Word} (h : opField w = 11) : decodeWord w = .ok (.jpV0 (nnnField w)) := by
  simp [decodeWord, h]

theorem decodeWord_familyC {w : Word} (h : opField w = 12) : decodeWord w = .ok (.rnd (xField w) (nnField w)) := by
  simp [decodeWord, h]

theorem decodeWord_familyD {w : Word} (h : opField w = 13) : decodeWord w = .ok (.drw (xField w) (yField w) (nField w)) := by
  simp [decodeWord, h]

theorem decodeWord_familyE {w : Word} (h : opField w = 14) : decodeWord w = decodeFamilyE (xField w) (nnField w) w := by
  simp [decodeWord, h]

theorem decodeWord_familyF {w : Word} (h : opField w = 15) : decodeWord w = decodeFamilyF (xField w) (nnField w) w := by
  simp [decodeWord, h]

/-! ## Families with sub-opcodes: what they decode to, or that they refuse by name -/

theorem decodeFamily0_cases (w : Word) :
    (w = 0x00E0 ∧ decodeFamily0 w = .ok .cls) ∨ (w = 0x00EE ∧ decodeFamily0 w = .ok .ret) ∨
    (w ≠ 0x00E0 ∧ w ≠ 0x00EE ∧ decodeFamily0 w = .refused (.unrecognized w)) := by
  by_cases h : w = 0x00E0#16
  · subst h; exact .inl ⟨rfl, rfl⟩
  · by_cases h' : w = 0x00EE#16
    · subst h'; exact .inr (.inl ⟨rfl, rfl⟩)
    · exact .inr (.inr ⟨h, h', by unfold decodeFamily0; rw [if_neg h, if_neg h']⟩)

theorem decodeIfZero_cases (n : Nibble) (i : Instr) (w : Word) :
    (n = 0 ∧ decodeIfZero n i w = .ok i) ∨ (n ≠ 0 ∧ decodeIfZero n i w = .refused (.unrecognized w)) := by
  by_cases h : n = 0
  · exact .inl ⟨h, if_pos h⟩
  · exact .inr ⟨h, if_neg h⟩

/-- A chain of tests on a field: one of the tested values, or none of them. -/
theorem decodeFamily8_cases (x y n : Nibble) (w : Word) :
    (n = 0x0 ∧ decodeFamily8 x y n w = .ok (.ldReg x y)) ∨ (n = 0x1 ∧ decodeFamily8 x y n w = .ok (.or x y)) ∨
    (n = 0x2 ∧ decodeFamily8 x y n w = .ok (.and x y)) ∨ (n = 0x3 ∧ decodeFamily8 x y n w = .ok (.xor x y)) ∨
    (n = 0x4 ∧ decodeFamily8 x y n w = .ok (.addReg x y)) ∨ (n = 0x5 ∧ decodeFamily8 x y n w = .ok (.subReg x y)) ∨
    (n = 0x6 ∧ decodeFamily8 x y n w = .ok (.shr x y)) ∨ (n = 0x7 ∧ decodeFamily8 x y n w = .ok (.subn x y)) ∨
    (n = 0xE ∧ decodeFamily8 x y n w = .ok (.shl x y)) ∨
    ((7 < n.toNat ∧ n ≠ 0xE) ∧ decodeFamily8 x y n w = .refused (.unrecognized w)) := by
  unfold decodeFamily8
  repeat' split
  all_goals first
    | (next h => subst h; simp)
    | (refine .inr (.inr (.inr (.inr (.inr (.inr (.inr (.inr (.inr ⟨⟨?_, by assumption⟩, rfl⟩)))))))); bv_omega)

theorem decodeFamilyE_cases (x : Nibble) (nn : Byte) (w : Word) :
    (nn = 0x9E ∧ decodeFamilyE x nn w = .ok (.skp x)) ∨ (nn = 0xA1 ∧ decodeFamilyE x nn w = .ok (.sknp x)) ∨
    ((nn ≠ 0x9E ∧ nn ≠ 0xA1) ∧ decodeFamilyE x nn w = .refused (.unrecognized w)) := by
  unfold decodeFamilyE
  by_cases h : nn = 0x9E
  · exact .inl ⟨h, if_pos h⟩
  · by_cases h' : nn = 0xA1
    · exact .inr (.inl ⟨h', by rw [if_neg h, if_pos h']⟩)
    · exact .inr (.inr ⟨⟨h, h'⟩, by rw [if_neg h, if_neg h']⟩)

theorem decodeFamilyF_cases (x : Nibble) (nn : Byte) (w : Word) :
    (nn = 0x07 ∧ decodeFamilyF x nn w = .ok (.ldVxDT x)) ∨ (nn = 0x0A ∧ decodeFamilyF x nn w = .ok (.ldVxK x)) ∨
    (nn = 0x15 ∧ decodeFamilyF x nn w = .ok (.ldDT x)) ∨ (nn = 0x18 ∧ decodeFamilyF x nn w = .ok (.ldST x)) ∨
    (nn = 0x1E ∧ decodeFamilyF x nn w = .ok (.addI x)) ∨ (nn = 0x29 ∧ decodeFamilyF x nn w = .ok (.ldF x)) ∨
    (nn = 0x33 ∧ decodeFamilyF x nn w = .ok (.ldB x)) ∨ (nn = 0x55 ∧ decodeFamilyF x nn w = .ok (.storeRegs x)) ∨
    (nn = 0x65 ∧ decodeFamilyF x nn w = .ok (.loadRegs x)) ∨
    ((nn ≠ 0x07 ∧ nn ≠ 0x0A ∧ nn ≠ 0x15 ∧ nn ≠ 0x18 ∧ nn ≠ 0x1E ∧ nn ≠ 0x29 ∧ nn ≠ 0x33 ∧ nn ≠ 0x55 ∧ nn ≠ 0x65) ∧
      decodeFamilyF x nn w = .refused (.unrecognized w)) := by
  by_cases h1 : nn = 0x07
  · subst h1; simp [decodeFamilyF]
  by_cases h2 : nn = 0x0A
  · subst h2; simp [decodeFamilyF]
  by_cases h3 : nn = 0x15
  · subst h3; simp [decodeFamilyF]
  by_cases h4 : nn = 0x18
  · subst h4; simp [decodeFamilyF]
  by_cases h5 : nn = 0x1E
  · subst h5; simp [decodeFamilyF]
  by_cases h6 : nn = 0x29
  · subst h6; simp [decodeFamilyF]
  by_cases h7 : nn = 0x33
  · subst h7; simp [decodeFamilyF]
  by_cases h8 : nn = 0x55
  · subst h8; simp [decodeFamilyF]
  by_cases h9 : nn = 0x65
  · subst h9; simp [decodeFamilyF]
  simp only [h1, h2, h3, h4, h5, h6, h7, h8, h9, false_and, false_or, ne_eq, not_false_eq_true, true_and]
  simp only [decodeFamilyF, h1, h2, h3, h4, h5, h6, h7, h8, h9, if_false]

/-! ## Refusals -/

/-- If this decoding refuses, it refuses `w` by name. -/
def RefusesOnly (w : Word) (d : Decoded Instr) : Prop := ∀ e, d = .refused e → e = .unrecognized w

theorem refusesOnly_ok (w : Word) (i : Instr) : RefusesOnly w (.ok i) := fun _ h => nomatch h

theorem refusesOnly_unrecognized (w : Word) : RefusesOnly w (.refused (.unrecognized w)) := fun _ h => by cases h; rfl

/-- A test refuses by name when both of its outcomes do. -/
theorem refusesOnly_ite {w : Word} {c : Prop} [Decidable c] {d e : Decoded Instr} (hd : RefusesOnly w d) (he : RefusesOnly w e) :
    RefusesOnly w (if c then d else e) := by
  by_cases h : c
  · rw [if_pos h]; exact hd
  · rw [if_neg h]; exact he

/-- A refused word is refused by name, as unrecognized (30_encoding R97). -/
theorem decodeWord_refused {w : Word} {e : DecodeError} (h : decodeWord w = .refused e) : e = .unrecognized w := by
  suffices RefusesOnly w (decodeWord w) from this e h
  unfold decodeWord decodeFamily0 decodeIfZero decodeFamily8 decodeFamilyE decodeFamilyF
  dsimp only
  repeat' first
    | exact refusesOnly_ok w _
    | exact refusesOnly_unrecognized w
    | apply refusesOnly_ite

end Sys2Proof
end

