-- ==== Sys2Proof/Laws/Memory.lean ====
section
/-!
SUPPORT. The laws of memory: what a read after a write answers, and that every memory operation keeps the
canonical form.
-/

namespace Sys2Proof.Machine

/-! ## Memory that no store has changed -/

/-- Byte `i` of the font table (10_state R22). -/
theorem initialByte_font {i : Nat} (h : i < 80) : initialByte (0x50 + i) = Config.font[i] := by
  unfold initialByte Config.fontBase
  rw [dif_pos (by omega)]
  congr 1
  exact Nat.add_sub_cancel_left 0x50 i

/-- Every byte outside the font table is 0 (10_state R24). -/
theorem initialByte_outside {a : Nat} (h : a < 0x50 ∨ 0x9F < a) : initialByte a = 0 := by
  unfold initialByte Config.fontBase
  exact dif_neg (by omega)

/-! ## A read after a write -/

theorem Memory.read_insert (m : Memory) (a : Nat) (b : Byte) (r : Nat) :
    (m.insert a b).read r = if r = a then b else m.read r := by
  induction m with
  | nil => simp [Memory.insert, Memory.read]
  | cons c m ih =>
    obtain ⟨k, v⟩ := c
    simp only [Memory.insert]
    split
    · simp only [Memory.read]
    · split
      · next h => subst h; simp only [Memory.read]; split <;> simp_all
      · next h => simp only [Memory.read, ih]; by_cases r = k <;> by_cases r = a <;> simp_all

theorem Memory.read_erase (m : Memory) (a r : Nat) :
    (m.erase a).read r = if r = a then initialByte a else m.read r := by
  induction m with
  | nil => by_cases h : r = a <;> simp [Memory.erase, Memory.read, h]
  | cons c m ih =>
    obtain ⟨k, v⟩ := c
    simp only [Memory.erase] at ih
    by_cases hk : k = a
    · subst hk
      simp only [Memory.erase, List.filter_cons, bne_self_eq_false, Bool.false_eq_true, if_false, ih, Memory.read]
      by_cases h : r = k <;> simp [h]
    · simp only [Memory.erase, List.filter_cons, bne_iff_ne, ne_eq, hk, not_false_eq_true, if_true, Memory.read, ih]
      by_cases h : r = a
      · subst h; simp [Ne.symm hk]
      · simp [h]

/-- A read after a write: the byte written at its address, every other byte as before. -/
theorem Memory.read_write (m : Memory) (a : Nat) (b : Byte) (r : Nat) :
    (m.write a b).read r = if r = a then b else m.read r := by
  unfold Memory.write
  split
  · next h => rw [Memory.read_erase, h]
  · exact Memory.read_insert m a b r

@[simp] theorem Memory.read_write_same (m : Memory) (a : Nat) (b : Byte) : (m.write a b).read a = b := by
  simp [Memory.read_write]

theorem Memory.read_write_other (m : Memory) {a r : Nat} (b : Byte) (h : r ≠ a) : (m.write a b).read r = m.read r := by
  simp [Memory.read_write, h]

/-- A read after a run of bytes was written from `a` on. -/
theorem Memory.read_writeBytes (bs : List Byte) (m : Memory) (a r : Nat) :
    (m.writeBytes a bs).read r = if h : a ≤ r ∧ r < a + bs.length then bs[r - a]'(by omega) else m.read r := by
  induction bs generalizing m a with
  | nil =>
    have h : ¬ (a ≤ r ∧ r < a + ([] : List Byte).length) := fun h => by simp only [List.length_nil] at h; omega
    rw [dif_neg h]; rfl
  | cons b bs ih =>
    simp only [Memory.writeBytes, ih, List.length_cons, Memory.read_write]
    by_cases h1 : r = a
    · subst h1
      rw [dif_neg (by omega), dif_pos (by omega)]
      simp
    · by_cases h2 : a + 1 ≤ r ∧ r < a + 1 + bs.length
      · have h3 : a ≤ r ∧ r < a + (bs.length + 1) := by omega
        rw [dif_pos h2, dif_pos h3]
        have : r - a = (r - (a + 1)) + 1 := by omega
        simp [this]
      · have h3 : ¬ (a ≤ r ∧ r < a + (bs.length + 1)) := by omega
        rw [dif_neg h2, dif_neg h3, if_neg h1]

theorem Memory.read_writeBytes_outside (bs : List Byte) (m : Memory) {a r : Nat} (h : r < a ∨ a + bs.length ≤ r) :
    (m.writeBytes a bs).read r = m.read r := by
  rw [Memory.read_writeBytes, dif_neg (by omega)]

/-! ## The canonical form -/

theorem Memory.wfAbove_cons (lo : Option Nat) (k : Nat) (b : Byte) (m : Memory) :
    Memory.wfAbove lo ((k, b) :: m) = true ↔
      (∀ l, lo = some l → l < k) ∧ k ≤ 0xFFF ∧ b ≠ initialByte k ∧ Memory.wfAbove (some k) m = true := by
  cases lo <;> simp only [Memory.wfAbove, Bool.and_eq_true, decide_eq_true_eq] <;> simp [Config.addrMax, and_assoc]

theorem Memory.wfAbove_weaken {l l' : Nat} {m : Memory} (h : Memory.wfAbove (some l) m = true) (hl : l' ≤ l) :
    Memory.wfAbove (some l') m = true := by
  cases m with
  | nil => rfl
  | cons c m =>
    obtain ⟨k, b⟩ := c
    rw [Memory.wfAbove_cons] at h ⊢
    exact ⟨fun x hx => by have := h.1 l rfl; cases hx; omega, h.2⟩

theorem Memory.wfAbove_none {l : Nat} {m : Memory} (h : Memory.wfAbove (some l) m = true) : Memory.wfAbove none m = true := by
  cases m with
  | nil => rfl
  | cons c m => obtain ⟨k, b⟩ := c; rw [Memory.wfAbove_cons] at h ⊢; exact ⟨by simp, h.2⟩

theorem Memory.insert_wfAbove (m : Memory) (a : Nat) (b : Byte) (lo : Option Nat) (hm : Memory.wfAbove lo m = true)
    (hlo : ∀ l, lo = some l → l < a) (ha : a ≤ 0xFFF) (hb : b ≠ initialByte a) :
    Memory.wfAbove lo (m.insert a b) = true := by
  induction m generalizing lo with
  | nil => simp only [Memory.insert, Memory.wfAbove_cons]; exact ⟨hlo, ha, hb, rfl⟩
  | cons c m ih =>
    obtain ⟨k, v⟩ := c
    have hc := (Memory.wfAbove_cons ..).1 hm
    simp only [Memory.insert]
    split
    · next h =>
      rw [Memory.wfAbove_cons, Memory.wfAbove_cons]
      exact ⟨hlo, ha, hb, fun l hl => by cases hl; exact h, hc.2⟩
    · split
      · next h => subst h; rw [Memory.wfAbove_cons]; exact ⟨hlo, ha, hb, hc.2.2.2⟩
      · rw [Memory.wfAbove_cons]
        exact ⟨hc.1, hc.2.1, hc.2.2.1, ih _ hc.2.2.2 (fun l hl => by cases hl; omega)⟩

theorem Memory.erase_wfAbove (m : Memory) (a : Nat) (lo : Option Nat) (hm : Memory.wfAbove lo m = true) :
    Memory.wfAbove lo (m.erase a) = true := by
  induction m generalizing lo with
  | nil => rfl
  | cons c m ih =>
    obtain ⟨k, v⟩ := c
    have hc := (Memory.wfAbove_cons ..).1 hm
    have ih' := fun lo h => ih lo h
    simp only [Memory.erase, List.filter_cons] at ih' ⊢
    split
    · rw [Memory.wfAbove_cons]; exact ⟨hc.1, hc.2.1, hc.2.2.1, ih' _ hc.2.2.2⟩
    · cases lo with
      | none => exact ih' _ (Memory.wfAbove_none hc.2.2.2)
      | some l => exact ih' _ (Memory.wfAbove_weaken hc.2.2.2 (Nat.le_of_lt (hc.1 l rfl)))

/-- A write to an address of memory keeps the canonical form. -/
theorem Memory.write_wf {m : Memory} (hm : m.wf = true) {a : Nat} (ha : a ≤ 0xFFF) (b : Byte) : (m.write a b).wf = true := by
  unfold Memory.write Memory.wf
  split
  · exact Memory.erase_wfAbove m a none hm
  · next h => exact Memory.insert_wfAbove m a b none hm (by simp) ha h

/-- Writing a run of bytes that lies in memory keeps the canonical form. -/
theorem Memory.writeBytes_wf (bs : List Byte) {m : Memory} (hm : m.wf = true) {a : Nat} (ha : a + bs.length ≤ 0x1000) :
    (m.writeBytes a bs).wf = true := by
  induction bs generalizing m a with
  | nil => exact hm
  | cons b bs ih =>
    simp only [List.length_cons] at ha
    exact ih (Memory.write_wf hm (by omega) b) (by omega)

theorem reset_mem_wf : State.reset.mem.wf = true := rfl

theorem Memory.nil_wf : Memory.wf [] = true := rfl

/-! ## Loading registers (43_index_memory R186) -/

theorem loadFrom_getElem (m : Memory) (a k : Nat) (v : RegFile) (r : Nat) (hr : r < 16) :
    (loadFrom m a k v)[r] = if r < k then m.read (a + r) else v[r] := by
  induction k with
  | zero => simp [loadFrom]
  | succ k ih =>
    simp only [loadFrom, Vector.getElem_setIfInBounds, ih]
    by_cases h : k = r
    · subst h; simp
    · simp only [h, if_false]
      by_cases h2 : r < k
      · rw [if_pos h2, if_pos (by omega)]
      · rw [if_neg h2, if_neg (by omega)]

theorem State.regsUpTo_length (s : State) (x : Nibble) : (s.regsUpTo x).length = x.toNat + 1 := by
  have := x.isLt
  simp [State.regsUpTo]; omega

theorem State.regsUpTo_getElem (s : State) (x : Nibble) (k : Nat) (h : k < (s.regsUpTo x).length) :
    (s.regsUpTo x)[k] = s.reg (BitVec.ofNat 4 k) := by
  have hx := x.isLt
  rw [State.regsUpTo_length] at h
  have : k % 16 = k := by omega
  simp [State.regsUpTo, State.reg, this]

end Sys2Proof.Machine
end

