-- ==== Sys2Proof/Laws/State.lean ====
section
/-!
SUPPORT. What each named update does to each field of State: one lemma per field per update, so that no later
proof unfolds an update.
-/

namespace Sys2Proof.Machine


/-! ## setReg -/

@[simp] theorem State.setReg_mem (s : State) (x : Nibble) (b : Byte) : (s.setReg x b).mem = s.mem := rfl
@[simp] theorem State.setReg_v (s : State) (x : Nibble) (b : Byte) : (s.setReg x b).v = s.v.set x.toNat b x.isLt := rfl
@[simp] theorem State.setReg_pc (s : State) (x : Nibble) (b : Byte) : (s.setReg x b).pc = s.pc := rfl
@[simp] theorem State.setReg_index (s : State) (x : Nibble) (b : Byte) : (s.setReg x b).index = s.index := rfl
@[simp] theorem State.setReg_stack (s : State) (x : Nibble) (b : Byte) : (s.setReg x b).stack = s.stack := rfl
@[simp] theorem State.setReg_sp (s : State) (x : Nibble) (b : Byte) : (s.setReg x b).sp = s.sp := rfl
@[simp] theorem State.setReg_dt (s : State) (x : Nibble) (b : Byte) : (s.setReg x b).dt = s.dt := rfl
@[simp] theorem State.setReg_st (s : State) (x : Nibble) (b : Byte) : (s.setReg x b).st = s.st := rfl
@[simp] theorem State.setReg_acc (s : State) (x : Nibble) (b : Byte) : (s.setReg x b).acc = s.acc := rfl
@[simp] theorem State.setReg_disp (s : State) (x : Nibble) (b : Byte) : (s.setReg x b).disp = s.disp := rfl
@[simp] theorem State.setReg_keyPrev (s : State) (x : Nibble) (b : Byte) : (s.setReg x b).keyPrev = s.keyPrev := rfl
@[simp] theorem State.setReg_quirk (s : State) (x : Nibble) (b : Byte) : (s.setReg x b).quirk = s.quirk := rfl
@[simp] theorem State.setReg_halted (s : State) (x : Nibble) (b : Byte) : (s.setReg x b).halted = s.halted := rfl
@[simp] theorem State.setReg_faultCause (s : State) (x : Nibble) (b : Byte) : (s.setReg x b).faultCause = s.faultCause := rfl
@[simp] theorem State.setReg_faultAddr (s : State) (x : Nibble) (b : Byte) : (s.setReg x b).faultAddr = s.faultAddr := rfl
@[simp] theorem State.setReg_faultInfo (s : State) (x : Nibble) (b : Byte) : (s.setReg x b).faultInfo = s.faultInfo := rfl
@[simp] theorem State.setReg_inputs (s : State) (x : Nibble) (b : Byte) : (s.setReg x b).inputs = s.inputs := rfl
@[simp] theorem State.setReg_stepNo (s : State) (x : Nibble) (b : Byte) : (s.setReg x b).stepNo = s.stepNo := rfl

/-! ## setVF -/

@[simp] theorem State.setVF_mem (s : State) (b : Byte) : (s.setVF b).mem = s.mem := rfl
@[simp] theorem State.setVF_pc (s : State) (b : Byte) : (s.setVF b).pc = s.pc := rfl
@[simp] theorem State.setVF_index (s : State) (b : Byte) : (s.setVF b).index = s.index := rfl
@[simp] theorem State.setVF_stack (s : State) (b : Byte) : (s.setVF b).stack = s.stack := rfl
@[simp] theorem State.setVF_sp (s : State) (b : Byte) : (s.setVF b).sp = s.sp := rfl
@[simp] theorem State.setVF_dt (s : State) (b : Byte) : (s.setVF b).dt = s.dt := rfl
@[simp] theorem State.setVF_st (s : State) (b : Byte) : (s.setVF b).st = s.st := rfl
@[simp] theorem State.setVF_acc (s : State) (b : Byte) : (s.setVF b).acc = s.acc := rfl
@[simp] theorem State.setVF_disp (s : State) (b : Byte) : (s.setVF b).disp = s.disp := rfl
@[simp] theorem State.setVF_keyPrev (s : State) (b : Byte) : (s.setVF b).keyPrev = s.keyPrev := rfl
@[simp] theorem State.setVF_quirk (s : State) (b : Byte) : (s.setVF b).quirk = s.quirk := rfl
@[simp] theorem State.setVF_halted (s : State) (b : Byte) : (s.setVF b).halted = s.halted := rfl
@[simp] theorem State.setVF_faultCause (s : State) (b : Byte) : (s.setVF b).faultCause = s.faultCause := rfl
@[simp] theorem State.setVF_faultAddr (s : State) (b : Byte) : (s.setVF b).faultAddr = s.faultAddr := rfl
@[simp] theorem State.setVF_faultInfo (s : State) (b : Byte) : (s.setVF b).faultInfo = s.faultInfo := rfl
@[simp] theorem State.setVF_inputs (s : State) (b : Byte) : (s.setVF b).inputs = s.inputs := rfl
@[simp] theorem State.setVF_stepNo (s : State) (b : Byte) : (s.setVF b).stepNo = s.stepNo := rfl

/-! ## setIndex -/

@[simp] theorem State.setIndex_mem (s : State) (a : Word) : (s.setIndex a).mem = s.mem := rfl
@[simp] theorem State.setIndex_v (s : State) (a : Word) : (s.setIndex a).v = s.v := rfl
@[simp] theorem State.setIndex_pc (s : State) (a : Word) : (s.setIndex a).pc = s.pc := rfl
@[simp] theorem State.setIndex_index (s : State) (a : Word) : (s.setIndex a).index = a := rfl
@[simp] theorem State.setIndex_stack (s : State) (a : Word) : (s.setIndex a).stack = s.stack := rfl
@[simp] theorem State.setIndex_sp (s : State) (a : Word) : (s.setIndex a).sp = s.sp := rfl
@[simp] theorem State.setIndex_dt (s : State) (a : Word) : (s.setIndex a).dt = s.dt := rfl
@[simp] theorem State.setIndex_st (s : State) (a : Word) : (s.setIndex a).st = s.st := rfl
@[simp] theorem State.setIndex_acc (s : State) (a : Word) : (s.setIndex a).acc = s.acc := rfl
@[simp] theorem State.setIndex_disp (s : State) (a : Word) : (s.setIndex a).disp = s.disp := rfl
@[simp] theorem State.setIndex_keyPrev (s : State) (a : Word) : (s.setIndex a).keyPrev = s.keyPrev := rfl
@[simp] theorem State.setIndex_quirk (s : State) (a : Word) : (s.setIndex a).quirk = s.quirk := rfl
@[simp] theorem State.setIndex_halted (s : State) (a : Word) : (s.setIndex a).halted = s.halted := rfl
@[simp] theorem State.setIndex_faultCause (s : State) (a : Word) : (s.setIndex a).faultCause = s.faultCause := rfl
@[simp] theorem State.setIndex_faultAddr (s : State) (a : Word) : (s.setIndex a).faultAddr = s.faultAddr := rfl
@[simp] theorem State.setIndex_faultInfo (s : State) (a : Word) : (s.setIndex a).faultInfo = s.faultInfo := rfl
@[simp] theorem State.setIndex_inputs (s : State) (a : Word) : (s.setIndex a).inputs = s.inputs := rfl
@[simp] theorem State.setIndex_stepNo (s : State) (a : Word) : (s.setIndex a).stepNo = s.stepNo := rfl

/-! ## setMem -/

@[simp] theorem State.setMem_mem (s : State) (m : Memory) : (s.setMem m).mem = m := rfl
@[simp] theorem State.setMem_v (s : State) (m : Memory) : (s.setMem m).v = s.v := rfl
@[simp] theorem State.setMem_pc (s : State) (m : Memory) : (s.setMem m).pc = s.pc := rfl
@[simp] theorem State.setMem_index (s : State) (m : Memory) : (s.setMem m).index = s.index := rfl
@[simp] theorem State.setMem_stack (s : State) (m : Memory) : (s.setMem m).stack = s.stack := rfl
@[simp] theorem State.setMem_sp (s : State) (m : Memory) : (s.setMem m).sp = s.sp := rfl
@[simp] theorem State.setMem_dt (s : State) (m : Memory) : (s.setMem m).dt = s.dt := rfl
@[simp] theorem State.setMem_st (s : State) (m : Memory) : (s.setMem m).st = s.st := rfl
@[simp] theorem State.setMem_acc (s : State) (m : Memory) : (s.setMem m).acc = s.acc := rfl
@[simp] theorem State.setMem_disp (s : State) (m : Memory) : (s.setMem m).disp = s.disp := rfl
@[simp] theorem State.setMem_keyPrev (s : State) (m : Memory) : (s.setMem m).keyPrev = s.keyPrev := rfl
@[simp] theorem State.setMem_quirk (s : State) (m : Memory) : (s.setMem m).quirk = s.quirk := rfl
@[simp] theorem State.setMem_halted (s : State) (m : Memory) : (s.setMem m).halted = s.halted := rfl
@[simp] theorem State.setMem_faultCause (s : State) (m : Memory) : (s.setMem m).faultCause = s.faultCause := rfl
@[simp] theorem State.setMem_faultAddr (s : State) (m : Memory) : (s.setMem m).faultAddr = s.faultAddr := rfl
@[simp] theorem State.setMem_faultInfo (s : State) (m : Memory) : (s.setMem m).faultInfo = s.faultInfo := rfl
@[simp] theorem State.setMem_inputs (s : State) (m : Memory) : (s.setMem m).inputs = s.inputs := rfl
@[simp] theorem State.setMem_stepNo (s : State) (m : Memory) : (s.setMem m).stepNo = s.stepNo := rfl

/-! ## setRegs -/

@[simp] theorem State.setRegs_mem (s : State) (r : RegFile) : (s.setRegs r).mem = s.mem := rfl
@[simp] theorem State.setRegs_v (s : State) (r : RegFile) : (s.setRegs r).v = r := rfl
@[simp] theorem State.setRegs_pc (s : State) (r : RegFile) : (s.setRegs r).pc = s.pc := rfl
@[simp] theorem State.setRegs_index (s : State) (r : RegFile) : (s.setRegs r).index = s.index := rfl
@[simp] theorem State.setRegs_stack (s : State) (r : RegFile) : (s.setRegs r).stack = s.stack := rfl
@[simp] theorem State.setRegs_sp (s : State) (r : RegFile) : (s.setRegs r).sp = s.sp := rfl
@[simp] theorem State.setRegs_dt (s : State) (r : RegFile) : (s.setRegs r).dt = s.dt := rfl
@[simp] theorem State.setRegs_st (s : State) (r : RegFile) : (s.setRegs r).st = s.st := rfl
@[simp] theorem State.setRegs_acc (s : State) (r : RegFile) : (s.setRegs r).acc = s.acc := rfl
@[simp] theorem State.setRegs_disp (s : State) (r : RegFile) : (s.setRegs r).disp = s.disp := rfl
@[simp] theorem State.setRegs_keyPrev (s : State) (r : RegFile) : (s.setRegs r).keyPrev = s.keyPrev := rfl
@[simp] theorem State.setRegs_quirk (s : State) (r : RegFile) : (s.setRegs r).quirk = s.quirk := rfl
@[simp] theorem State.setRegs_halted (s : State) (r : RegFile) : (s.setRegs r).halted = s.halted := rfl
@[simp] theorem State.setRegs_faultCause (s : State) (r : RegFile) : (s.setRegs r).faultCause = s.faultCause := rfl
@[simp] theorem State.setRegs_faultAddr (s : State) (r : RegFile) : (s.setRegs r).faultAddr = s.faultAddr := rfl
@[simp] theorem State.setRegs_faultInfo (s : State) (r : RegFile) : (s.setRegs r).faultInfo = s.faultInfo := rfl
@[simp] theorem State.setRegs_inputs (s : State) (r : RegFile) : (s.setRegs r).inputs = s.inputs := rfl
@[simp] theorem State.setRegs_stepNo (s : State) (r : RegFile) : (s.setRegs r).stepNo = s.stepNo := rfl

/-! ## setDisp -/

@[simp] theorem State.setDisp_mem (s : State) (d : Display) : (s.setDisp d).mem = s.mem := rfl
@[simp] theorem State.setDisp_v (s : State) (d : Display) : (s.setDisp d).v = s.v := rfl
@[simp] theorem State.setDisp_pc (s : State) (d : Display) : (s.setDisp d).pc = s.pc := rfl
@[simp] theorem State.setDisp_index (s : State) (d : Display) : (s.setDisp d).index = s.index := rfl
@[simp] theorem State.setDisp_stack (s : State) (d : Display) : (s.setDisp d).stack = s.stack := rfl
@[simp] theorem State.setDisp_sp (s : State) (d : Display) : (s.setDisp d).sp = s.sp := rfl
@[simp] theorem State.setDisp_dt (s : State) (d : Display) : (s.setDisp d).dt = s.dt := rfl
@[simp] theorem State.setDisp_st (s : State) (d : Display) : (s.setDisp d).st = s.st := rfl
@[simp] theorem State.setDisp_acc (s : State) (d : Display) : (s.setDisp d).acc = s.acc := rfl
@[simp] theorem State.setDisp_disp (s : State) (d : Display) : (s.setDisp d).disp = d := rfl
@[simp] theorem State.setDisp_keyPrev (s : State) (d : Display) : (s.setDisp d).keyPrev = s.keyPrev := rfl
@[simp] theorem State.setDisp_quirk (s : State) (d : Display) : (s.setDisp d).quirk = s.quirk := rfl
@[simp] theorem State.setDisp_halted (s : State) (d : Display) : (s.setDisp d).halted = s.halted := rfl
@[simp] theorem State.setDisp_faultCause (s : State) (d : Display) : (s.setDisp d).faultCause = s.faultCause := rfl
@[simp] theorem State.setDisp_faultAddr (s : State) (d : Display) : (s.setDisp d).faultAddr = s.faultAddr := rfl
@[simp] theorem State.setDisp_faultInfo (s : State) (d : Display) : (s.setDisp d).faultInfo = s.faultInfo := rfl
@[simp] theorem State.setDisp_inputs (s : State) (d : Display) : (s.setDisp d).inputs = s.inputs := rfl
@[simp] theorem State.setDisp_stepNo (s : State) (d : Display) : (s.setDisp d).stepNo = s.stepNo := rfl

/-! ## setDT -/

@[simp] theorem State.setDT_mem (s : State) (b : Byte) : (s.setDT b).mem = s.mem := rfl
@[simp] theorem State.setDT_v (s : State) (b : Byte) : (s.setDT b).v = s.v := rfl
@[simp] theorem State.setDT_pc (s : State) (b : Byte) : (s.setDT b).pc = s.pc := rfl
@[simp] theorem State.setDT_index (s : State) (b : Byte) : (s.setDT b).index = s.index := rfl
@[simp] theorem State.setDT_stack (s : State) (b : Byte) : (s.setDT b).stack = s.stack := rfl
@[simp] theorem State.setDT_sp (s : State) (b : Byte) : (s.setDT b).sp = s.sp := rfl
@[simp] theorem State.setDT_dt (s : State) (b : Byte) : (s.setDT b).dt = b := rfl
@[simp] theorem State.setDT_st (s : State) (b : Byte) : (s.setDT b).st = s.st := rfl
@[simp] theorem State.setDT_acc (s : State) (b : Byte) : (s.setDT b).acc = s.acc := rfl
@[simp] theorem State.setDT_disp (s : State) (b : Byte) : (s.setDT b).disp = s.disp := rfl
@[simp] theorem State.setDT_keyPrev (s : State) (b : Byte) : (s.setDT b).keyPrev = s.keyPrev := rfl
@[simp] theorem State.setDT_quirk (s : State) (b : Byte) : (s.setDT b).quirk = s.quirk := rfl
@[simp] theorem State.setDT_halted (s : State) (b : Byte) : (s.setDT b).halted = s.halted := rfl
@[simp] theorem State.setDT_faultCause (s : State) (b : Byte) : (s.setDT b).faultCause = s.faultCause := rfl
@[simp] theorem State.setDT_faultAddr (s : State) (b : Byte) : (s.setDT b).faultAddr = s.faultAddr := rfl
@[simp] theorem State.setDT_faultInfo (s : State) (b : Byte) : (s.setDT b).faultInfo = s.faultInfo := rfl
@[simp] theorem State.setDT_inputs (s : State) (b : Byte) : (s.setDT b).inputs = s.inputs := rfl
@[simp] theorem State.setDT_stepNo (s : State) (b : Byte) : (s.setDT b).stepNo = s.stepNo := rfl

/-! ## setST -/

@[simp] theorem State.setST_mem (s : State) (b : Byte) : (s.setST b).mem = s.mem := rfl
@[simp] theorem State.setST_v (s : State) (b : Byte) : (s.setST b).v = s.v := rfl
@[simp] theorem State.setST_pc (s : State) (b : Byte) : (s.setST b).pc = s.pc := rfl
@[simp] theorem State.setST_index (s : State) (b : Byte) : (s.setST b).index = s.index := rfl
@[simp] theorem State.setST_stack (s : State) (b : Byte) : (s.setST b).stack = s.stack := rfl
@[simp] theorem State.setST_sp (s : State) (b : Byte) : (s.setST b).sp = s.sp := rfl
@[simp] theorem State.setST_dt (s : State) (b : Byte) : (s.setST b).dt = s.dt := rfl
@[simp] theorem State.setST_st (s : State) (b : Byte) : (s.setST b).st = b := rfl
@[simp] theorem State.setST_acc (s : State) (b : Byte) : (s.setST b).acc = s.acc := rfl
@[simp] theorem State.setST_disp (s : State) (b : Byte) : (s.setST b).disp = s.disp := rfl
@[simp] theorem State.setST_keyPrev (s : State) (b : Byte) : (s.setST b).keyPrev = s.keyPrev := rfl
@[simp] theorem State.setST_quirk (s : State) (b : Byte) : (s.setST b).quirk = s.quirk := rfl
@[simp] theorem State.setST_halted (s : State) (b : Byte) : (s.setST b).halted = s.halted := rfl
@[simp] theorem State.setST_faultCause (s : State) (b : Byte) : (s.setST b).faultCause = s.faultCause := rfl
@[simp] theorem State.setST_faultAddr (s : State) (b : Byte) : (s.setST b).faultAddr = s.faultAddr := rfl
@[simp] theorem State.setST_faultInfo (s : State) (b : Byte) : (s.setST b).faultInfo = s.faultInfo := rfl
@[simp] theorem State.setST_inputs (s : State) (b : Byte) : (s.setST b).inputs = s.inputs := rfl
@[simp] theorem State.setST_stepNo (s : State) (b : Byte) : (s.setST b).stepNo = s.stepNo := rfl

/-! ## jump -/

@[simp] theorem State.jump_mem (s : State) (a : Word) : (s.jump a).mem = s.mem := rfl
@[simp] theorem State.jump_v (s : State) (a : Word) : (s.jump a).v = s.v := rfl
@[simp] theorem State.jump_pc (s : State) (a : Word) : (s.jump a).pc = a := rfl
@[simp] theorem State.jump_index (s : State) (a : Word) : (s.jump a).index = s.index := rfl
@[simp] theorem State.jump_stack (s : State) (a : Word) : (s.jump a).stack = s.stack := rfl
@[simp] theorem State.jump_sp (s : State) (a : Word) : (s.jump a).sp = s.sp := rfl
@[simp] theorem State.jump_dt (s : State) (a : Word) : (s.jump a).dt = s.dt := rfl
@[simp] theorem State.jump_st (s : State) (a : Word) : (s.jump a).st = s.st := rfl
@[simp] theorem State.jump_acc (s : State) (a : Word) : (s.jump a).acc = s.acc := rfl
@[simp] theorem State.jump_disp (s : State) (a : Word) : (s.jump a).disp = s.disp := rfl
@[simp] theorem State.jump_keyPrev (s : State) (a : Word) : (s.jump a).keyPrev = s.keyPrev := rfl
@[simp] theorem State.jump_quirk (s : State) (a : Word) : (s.jump a).quirk = s.quirk := rfl
@[simp] theorem State.jump_halted (s : State) (a : Word) : (s.jump a).halted = s.halted := rfl
@[simp] theorem State.jump_faultCause (s : State) (a : Word) : (s.jump a).faultCause = s.faultCause := rfl
@[simp] theorem State.jump_faultAddr (s : State) (a : Word) : (s.jump a).faultAddr = s.faultAddr := rfl
@[simp] theorem State.jump_faultInfo (s : State) (a : Word) : (s.jump a).faultInfo = s.faultInfo := rfl
@[simp] theorem State.jump_inputs (s : State) (a : Word) : (s.jump a).inputs = s.inputs := rfl
@[simp] theorem State.jump_stepNo (s : State) (a : Word) : (s.jump a).stepNo = s.stepNo := rfl

/-! ## skip -/

@[simp] theorem State.skip_mem (s : State) : (s.skip).mem = s.mem := rfl
@[simp] theorem State.skip_v (s : State) : (s.skip).v = s.v := rfl
@[simp] theorem State.skip_pc (s : State) : (s.skip).pc = s.pc + 2 := rfl
@[simp] theorem State.skip_index (s : State) : (s.skip).index = s.index := rfl
@[simp] theorem State.skip_stack (s : State) : (s.skip).stack = s.stack := rfl
@[simp] theorem State.skip_sp (s : State) : (s.skip).sp = s.sp := rfl
@[simp] theorem State.skip_dt (s : State) : (s.skip).dt = s.dt := rfl
@[simp] theorem State.skip_st (s : State) : (s.skip).st = s.st := rfl
@[simp] theorem State.skip_acc (s : State) : (s.skip).acc = s.acc := rfl
@[simp] theorem State.skip_disp (s : State) : (s.skip).disp = s.disp := rfl
@[simp] theorem State.skip_keyPrev (s : State) : (s.skip).keyPrev = s.keyPrev := rfl
@[simp] theorem State.skip_quirk (s : State) : (s.skip).quirk = s.quirk := rfl
@[simp] theorem State.skip_halted (s : State) : (s.skip).halted = s.halted := rfl
@[simp] theorem State.skip_faultCause (s : State) : (s.skip).faultCause = s.faultCause := rfl
@[simp] theorem State.skip_faultAddr (s : State) : (s.skip).faultAddr = s.faultAddr := rfl
@[simp] theorem State.skip_faultInfo (s : State) : (s.skip).faultInfo = s.faultInfo := rfl
@[simp] theorem State.skip_inputs (s : State) : (s.skip).inputs = s.inputs := rfl
@[simp] theorem State.skip_stepNo (s : State) : (s.skip).stepNo = s.stepNo := rfl

/-! ## rewind -/

@[simp] theorem State.rewind_mem (s : State) : (s.rewind).mem = s.mem := rfl
@[simp] theorem State.rewind_v (s : State) : (s.rewind).v = s.v := rfl
@[simp] theorem State.rewind_pc (s : State) : (s.rewind).pc = s.instrAddr := rfl
@[simp] theorem State.rewind_index (s : State) : (s.rewind).index = s.index := rfl
@[simp] theorem State.rewind_stack (s : State) : (s.rewind).stack = s.stack := rfl
@[simp] theorem State.rewind_sp (s : State) : (s.rewind).sp = s.sp := rfl
@[simp] theorem State.rewind_dt (s : State) : (s.rewind).dt = s.dt := rfl
@[simp] theorem State.rewind_st (s : State) : (s.rewind).st = s.st := rfl
@[simp] theorem State.rewind_acc (s : State) : (s.rewind).acc = s.acc := rfl
@[simp] theorem State.rewind_disp (s : State) : (s.rewind).disp = s.disp := rfl
@[simp] theorem State.rewind_keyPrev (s : State) : (s.rewind).keyPrev = s.keyPrev := rfl
@[simp] theorem State.rewind_quirk (s : State) : (s.rewind).quirk = s.quirk := rfl
@[simp] theorem State.rewind_halted (s : State) : (s.rewind).halted = s.halted := rfl
@[simp] theorem State.rewind_faultCause (s : State) : (s.rewind).faultCause = s.faultCause := rfl
@[simp] theorem State.rewind_faultAddr (s : State) : (s.rewind).faultAddr = s.faultAddr := rfl
@[simp] theorem State.rewind_faultInfo (s : State) : (s.rewind).faultInfo = s.faultInfo := rfl
@[simp] theorem State.rewind_inputs (s : State) : (s.rewind).inputs = s.inputs := rfl
@[simp] theorem State.rewind_stepNo (s : State) : (s.rewind).stepNo = s.stepNo := rfl

/-! ## raiseAt -/

@[simp] theorem State.raiseAt_mem (s : State) (f : Fault) (a info : Word) : (s.raiseAt f a info).mem = s.mem := rfl
@[simp] theorem State.raiseAt_v (s : State) (f : Fault) (a info : Word) : (s.raiseAt f a info).v = s.v := rfl
@[simp] theorem State.raiseAt_pc (s : State) (f : Fault) (a info : Word) : (s.raiseAt f a info).pc = a := rfl
@[simp] theorem State.raiseAt_index (s : State) (f : Fault) (a info : Word) : (s.raiseAt f a info).index = s.index := rfl
@[simp] theorem State.raiseAt_stack (s : State) (f : Fault) (a info : Word) : (s.raiseAt f a info).stack = s.stack := rfl
@[simp] theorem State.raiseAt_sp (s : State) (f : Fault) (a info : Word) : (s.raiseAt f a info).sp = s.sp := rfl
@[simp] theorem State.raiseAt_dt (s : State) (f : Fault) (a info : Word) : (s.raiseAt f a info).dt = s.dt := rfl
@[simp] theorem State.raiseAt_st (s : State) (f : Fault) (a info : Word) : (s.raiseAt f a info).st = s.st := rfl
@[simp] theorem State.raiseAt_acc (s : State) (f : Fault) (a info : Word) : (s.raiseAt f a info).acc = s.acc := rfl
@[simp] theorem State.raiseAt_disp (s : State) (f : Fault) (a info : Word) : (s.raiseAt f a info).disp = s.disp := rfl
@[simp] theorem State.raiseAt_keyPrev (s : State) (f : Fault) (a info : Word) : (s.raiseAt f a info).keyPrev = s.keyPrev := rfl
@[simp] theorem State.raiseAt_quirk (s : State) (f : Fault) (a info : Word) : (s.raiseAt f a info).quirk = s.quirk := rfl
@[simp] theorem State.raiseAt_halted (s : State) (f : Fault) (a info : Word) : (s.raiseAt f a info).halted = true := rfl
@[simp] theorem State.raiseAt_faultCause (s : State) (f : Fault) (a info : Word) : (s.raiseAt f a info).faultCause = some f := rfl
@[simp] theorem State.raiseAt_faultAddr (s : State) (f : Fault) (a info : Word) : (s.raiseAt f a info).faultAddr = a := rfl
@[simp] theorem State.raiseAt_faultInfo (s : State) (f : Fault) (a info : Word) : (s.raiseAt f a info).faultInfo = info := rfl
@[simp] theorem State.raiseAt_inputs (s : State) (f : Fault) (a info : Word) : (s.raiseAt f a info).inputs = s.inputs := rfl
@[simp] theorem State.raiseAt_stepNo (s : State) (f : Fault) (a info : Word) : (s.raiseAt f a info).stepNo = s.stepNo := rfl

/-! ## raise -/

@[simp] theorem State.raise_mem (s : State) (f : Fault) (info : Word) : (s.raise f info).mem = s.mem := rfl
@[simp] theorem State.raise_v (s : State) (f : Fault) (info : Word) : (s.raise f info).v = s.v := rfl
@[simp] theorem State.raise_pc (s : State) (f : Fault) (info : Word) : (s.raise f info).pc = s.instrAddr := rfl
@[simp] theorem State.raise_index (s : State) (f : Fault) (info : Word) : (s.raise f info).index = s.index := rfl
@[simp] theorem State.raise_stack (s : State) (f : Fault) (info : Word) : (s.raise f info).stack = s.stack := rfl
@[simp] theorem State.raise_sp (s : State) (f : Fault) (info : Word) : (s.raise f info).sp = s.sp := rfl
@[simp] theorem State.raise_dt (s : State) (f : Fault) (info : Word) : (s.raise f info).dt = s.dt := rfl
@[simp] theorem State.raise_st (s : State) (f : Fault) (info : Word) : (s.raise f info).st = s.st := rfl
@[simp] theorem State.raise_acc (s : State) (f : Fault) (info : Word) : (s.raise f info).acc = s.acc := rfl
@[simp] theorem State.raise_disp (s : State) (f : Fault) (info : Word) : (s.raise f info).disp = s.disp := rfl
@[simp] theorem State.raise_keyPrev (s : State) (f : Fault) (info : Word) : (s.raise f info).keyPrev = s.keyPrev := rfl
@[simp] theorem State.raise_quirk (s : State) (f : Fault) (info : Word) : (s.raise f info).quirk = s.quirk := rfl
@[simp] theorem State.raise_halted (s : State) (f : Fault) (info : Word) : (s.raise f info).halted = true := rfl
@[simp] theorem State.raise_faultCause (s : State) (f : Fault) (info : Word) : (s.raise f info).faultCause = some f := rfl
@[simp] theorem State.raise_faultAddr (s : State) (f : Fault) (info : Word) : (s.raise f info).faultAddr = s.instrAddr := rfl
@[simp] theorem State.raise_faultInfo (s : State) (f : Fault) (info : Word) : (s.raise f info).faultInfo = info := rfl
@[simp] theorem State.raise_inputs (s : State) (f : Fault) (info : Word) : (s.raise f info).inputs = s.inputs := rfl
@[simp] theorem State.raise_stepNo (s : State) (f : Fault) (info : Word) : (s.raise f info).stepNo = s.stepNo := rfl

/-! ## show -/

@[simp] theorem State.show_mem (s : State) (d : Canvas) : (s.show d).mem = s.mem := rfl
@[simp] theorem State.show_pc (s : State) (d : Canvas) : (s.show d).pc = s.pc := rfl
@[simp] theorem State.show_index (s : State) (d : Canvas) : (s.show d).index = s.index := rfl
@[simp] theorem State.show_stack (s : State) (d : Canvas) : (s.show d).stack = s.stack := rfl
@[simp] theorem State.show_sp (s : State) (d : Canvas) : (s.show d).sp = s.sp := rfl
@[simp] theorem State.show_dt (s : State) (d : Canvas) : (s.show d).dt = s.dt := rfl
@[simp] theorem State.show_st (s : State) (d : Canvas) : (s.show d).st = s.st := rfl
@[simp] theorem State.show_acc (s : State) (d : Canvas) : (s.show d).acc = s.acc := rfl
@[simp] theorem State.show_disp (s : State) (d : Canvas) : (s.show d).disp = d.disp := rfl
@[simp] theorem State.show_keyPrev (s : State) (d : Canvas) : (s.show d).keyPrev = s.keyPrev := rfl
@[simp] theorem State.show_quirk (s : State) (d : Canvas) : (s.show d).quirk = s.quirk := rfl
@[simp] theorem State.show_halted (s : State) (d : Canvas) : (s.show d).halted = s.halted := rfl
@[simp] theorem State.show_faultCause (s : State) (d : Canvas) : (s.show d).faultCause = s.faultCause := rfl
@[simp] theorem State.show_faultAddr (s : State) (d : Canvas) : (s.show d).faultAddr = s.faultAddr := rfl
@[simp] theorem State.show_faultInfo (s : State) (d : Canvas) : (s.show d).faultInfo = s.faultInfo := rfl
@[simp] theorem State.show_inputs (s : State) (d : Canvas) : (s.show d).inputs = s.inputs := rfl
@[simp] theorem State.show_stepNo (s : State) (d : Canvas) : (s.show d).stepNo = s.stepNo := rfl

/-! ## latch -/

@[simp] theorem State.latch_mem (s : State) : (s.latch).mem = s.mem := rfl
@[simp] theorem State.latch_v (s : State) : (s.latch).v = s.v := rfl
@[simp] theorem State.latch_pc (s : State) : (s.latch).pc = s.pc := rfl
@[simp] theorem State.latch_index (s : State) : (s.latch).index = s.index := rfl
@[simp] theorem State.latch_stack (s : State) : (s.latch).stack = s.stack := rfl
@[simp] theorem State.latch_sp (s : State) : (s.latch).sp = s.sp := rfl
@[simp] theorem State.latch_dt (s : State) : (s.latch).dt = s.dt := rfl
@[simp] theorem State.latch_st (s : State) : (s.latch).st = s.st := rfl
@[simp] theorem State.latch_acc (s : State) : (s.latch).acc = s.acc := rfl
@[simp] theorem State.latch_disp (s : State) : (s.latch).disp = s.disp := rfl
@[simp] theorem State.latch_keyPrev (s : State) : (s.latch).keyPrev = s.now.keyNow := rfl
@[simp] theorem State.latch_quirk (s : State) : (s.latch).quirk = s.quirk := rfl
@[simp] theorem State.latch_halted (s : State) : (s.latch).halted = s.halted := rfl
@[simp] theorem State.latch_faultCause (s : State) : (s.latch).faultCause = s.faultCause := rfl
@[simp] theorem State.latch_faultAddr (s : State) : (s.latch).faultAddr = s.faultAddr := rfl
@[simp] theorem State.latch_faultInfo (s : State) : (s.latch).faultInfo = s.faultInfo := rfl
@[simp] theorem State.latch_inputs (s : State) : (s.latch).inputs = s.inputs := rfl
@[simp] theorem State.latch_stepNo (s : State) : (s.latch).stepNo = s.stepNo := rfl

/-! ## consume -/

@[simp] theorem State.consume_mem (s : State) : (s.consume).mem = s.mem := rfl
@[simp] theorem State.consume_v (s : State) : (s.consume).v = s.v := rfl
@[simp] theorem State.consume_pc (s : State) : (s.consume).pc = s.pc := rfl
@[simp] theorem State.consume_index (s : State) : (s.consume).index = s.index := rfl
@[simp] theorem State.consume_stack (s : State) : (s.consume).stack = s.stack := rfl
@[simp] theorem State.consume_sp (s : State) : (s.consume).sp = s.sp := rfl
@[simp] theorem State.consume_dt (s : State) : (s.consume).dt = s.dt := rfl
@[simp] theorem State.consume_st (s : State) : (s.consume).st = s.st := rfl
@[simp] theorem State.consume_acc (s : State) : (s.consume).acc = s.acc := rfl
@[simp] theorem State.consume_disp (s : State) : (s.consume).disp = s.disp := rfl
@[simp] theorem State.consume_keyPrev (s : State) : (s.consume).keyPrev = s.keyPrev := rfl
@[simp] theorem State.consume_quirk (s : State) : (s.consume).quirk = s.quirk := rfl
@[simp] theorem State.consume_halted (s : State) : (s.consume).halted = s.halted := rfl
@[simp] theorem State.consume_faultCause (s : State) : (s.consume).faultCause = s.faultCause := rfl
@[simp] theorem State.consume_faultAddr (s : State) : (s.consume).faultAddr = s.faultAddr := rfl
@[simp] theorem State.consume_faultInfo (s : State) : (s.consume).faultInfo = s.faultInfo := rfl
@[simp] theorem State.consume_inputs (s : State) : (s.consume).inputs = s.inputs.tail := rfl
@[simp] theorem State.consume_stepNo (s : State) : (s.consume).stepNo = s.stepNo + 1 := rfl

/-! ## advance -/

@[simp] theorem State.advance_mem (s : State) : (s.advance).mem = s.mem := rfl
@[simp] theorem State.advance_v (s : State) : (s.advance).v = s.v := rfl
@[simp] theorem State.advance_pc (s : State) : (s.advance).pc = s.pc + 2 := rfl
@[simp] theorem State.advance_index (s : State) : (s.advance).index = s.index := rfl
@[simp] theorem State.advance_stack (s : State) : (s.advance).stack = s.stack := rfl
@[simp] theorem State.advance_sp (s : State) : (s.advance).sp = s.sp := rfl
@[simp] theorem State.advance_dt (s : State) : (s.advance).dt = s.dt := rfl
@[simp] theorem State.advance_st (s : State) : (s.advance).st = s.st := rfl
@[simp] theorem State.advance_acc (s : State) : (s.advance).acc = s.acc := rfl
@[simp] theorem State.advance_disp (s : State) : (s.advance).disp = s.disp := rfl
@[simp] theorem State.advance_keyPrev (s : State) : (s.advance).keyPrev = s.keyPrev := rfl
@[simp] theorem State.advance_quirk (s : State) : (s.advance).quirk = s.quirk := rfl
@[simp] theorem State.advance_halted (s : State) : (s.advance).halted = s.halted := rfl
@[simp] theorem State.advance_faultCause (s : State) : (s.advance).faultCause = s.faultCause := rfl
@[simp] theorem State.advance_faultAddr (s : State) : (s.advance).faultAddr = s.faultAddr := rfl
@[simp] theorem State.advance_faultInfo (s : State) : (s.advance).faultInfo = s.faultInfo := rfl
@[simp] theorem State.advance_inputs (s : State) : (s.advance).inputs = s.inputs := rfl
@[simp] theorem State.advance_stepNo (s : State) : (s.advance).stepNo = s.stepNo := rfl

/-! ## timerTick -/

@[simp] theorem timerTick_mem (s : State) (e : BitVec 32) : (timerTick e s).mem = s.mem := rfl
@[simp] theorem timerTick_v (s : State) (e : BitVec 32) : (timerTick e s).v = s.v := rfl
@[simp] theorem timerTick_pc (s : State) (e : BitVec 32) : (timerTick e s).pc = s.pc := rfl
@[simp] theorem timerTick_index (s : State) (e : BitVec 32) : (timerTick e s).index = s.index := rfl
@[simp] theorem timerTick_stack (s : State) (e : BitVec 32) : (timerTick e s).stack = s.stack := rfl
@[simp] theorem timerTick_sp (s : State) (e : BitVec 32) : (timerTick e s).sp = s.sp := rfl
@[simp] theorem timerTick_dt (s : State) (e : BitVec 32) : (timerTick e s).dt = timerAfter s.dt ((s.acc.toNat + e.toNat) / Config.timerInterval) := rfl
@[simp] theorem timerTick_st (s : State) (e : BitVec 32) : (timerTick e s).st = timerAfter s.st ((s.acc.toNat + e.toNat) / Config.timerInterval) := rfl
@[simp] theorem timerTick_acc (s : State) (e : BitVec 32) : (timerTick e s).acc = BitVec.ofNat 64 ((s.acc.toNat + e.toNat) % Config.timerInterval) := rfl
@[simp] theorem timerTick_disp (s : State) (e : BitVec 32) : (timerTick e s).disp = s.disp := rfl
@[simp] theorem timerTick_keyPrev (s : State) (e : BitVec 32) : (timerTick e s).keyPrev = s.keyPrev := rfl
@[simp] theorem timerTick_quirk (s : State) (e : BitVec 32) : (timerTick e s).quirk = s.quirk := rfl
@[simp] theorem timerTick_halted (s : State) (e : BitVec 32) : (timerTick e s).halted = s.halted := rfl
@[simp] theorem timerTick_faultCause (s : State) (e : BitVec 32) : (timerTick e s).faultCause = s.faultCause := rfl
@[simp] theorem timerTick_faultAddr (s : State) (e : BitVec 32) : (timerTick e s).faultAddr = s.faultAddr := rfl
@[simp] theorem timerTick_faultInfo (s : State) (e : BitVec 32) : (timerTick e s).faultInfo = s.faultInfo := rfl
@[simp] theorem timerTick_inputs (s : State) (e : BitVec 32) : (timerTick e s).inputs = s.inputs := rfl
@[simp] theorem timerTick_stepNo (s : State) (e : BitVec 32) : (timerTick e s).stepNo = s.stepNo := rfl

/-! ## Conditional updates -/

@[simp] theorem State.skipIf_mem (s : State) (c : Bool) : (s.skipIf c).mem = s.mem := by cases c <;> rfl
@[simp] theorem State.skipIf_v (s : State) (c : Bool) : (s.skipIf c).v = s.v := by cases c <;> rfl
@[simp] theorem State.skipIf_index (s : State) (c : Bool) : (s.skipIf c).index = s.index := by cases c <;> rfl
@[simp] theorem State.skipIf_stack (s : State) (c : Bool) : (s.skipIf c).stack = s.stack := by cases c <;> rfl
@[simp] theorem State.skipIf_sp (s : State) (c : Bool) : (s.skipIf c).sp = s.sp := by cases c <;> rfl
@[simp] theorem State.skipIf_dt (s : State) (c : Bool) : (s.skipIf c).dt = s.dt := by cases c <;> rfl
@[simp] theorem State.skipIf_st (s : State) (c : Bool) : (s.skipIf c).st = s.st := by cases c <;> rfl
@[simp] theorem State.skipIf_acc (s : State) (c : Bool) : (s.skipIf c).acc = s.acc := by cases c <;> rfl
@[simp] theorem State.skipIf_disp (s : State) (c : Bool) : (s.skipIf c).disp = s.disp := by cases c <;> rfl
@[simp] theorem State.skipIf_keyPrev (s : State) (c : Bool) : (s.skipIf c).keyPrev = s.keyPrev := by cases c <;> rfl
@[simp] theorem State.skipIf_quirk (s : State) (c : Bool) : (s.skipIf c).quirk = s.quirk := by cases c <;> rfl
@[simp] theorem State.skipIf_halted (s : State) (c : Bool) : (s.skipIf c).halted = s.halted := by cases c <;> rfl
@[simp] theorem State.skipIf_faultCause (s : State) (c : Bool) : (s.skipIf c).faultCause = s.faultCause := by cases c <;> rfl
@[simp] theorem State.skipIf_faultAddr (s : State) (c : Bool) : (s.skipIf c).faultAddr = s.faultAddr := by cases c <;> rfl
@[simp] theorem State.skipIf_faultInfo (s : State) (c : Bool) : (s.skipIf c).faultInfo = s.faultInfo := by cases c <;> rfl
@[simp] theorem State.skipIf_inputs (s : State) (c : Bool) : (s.skipIf c).inputs = s.inputs := by cases c <;> rfl
@[simp] theorem State.skipIf_stepNo (s : State) (c : Bool) : (s.skipIf c).stepNo = s.stepNo := by cases c <;> rfl

@[simp] theorem State.setRegFlag_mem (s : State) (x : Nibble) (b : Byte) (c : Bool) : (s.setRegFlag x b c).mem = s.mem := rfl
@[simp] theorem State.setRegFlag_pc (s : State) (x : Nibble) (b : Byte) (c : Bool) : (s.setRegFlag x b c).pc = s.pc := rfl
@[simp] theorem State.setRegFlag_index (s : State) (x : Nibble) (b : Byte) (c : Bool) : (s.setRegFlag x b c).index = s.index := rfl
@[simp] theorem State.setRegFlag_stack (s : State) (x : Nibble) (b : Byte) (c : Bool) : (s.setRegFlag x b c).stack = s.stack := rfl
@[simp] theorem State.setRegFlag_sp (s : State) (x : Nibble) (b : Byte) (c : Bool) : (s.setRegFlag x b c).sp = s.sp := rfl
@[simp] theorem State.setRegFlag_dt (s : State) (x : Nibble) (b : Byte) (c : Bool) : (s.setRegFlag x b c).dt = s.dt := rfl
@[simp] theorem State.setRegFlag_st (s : State) (x : Nibble) (b : Byte) (c : Bool) : (s.setRegFlag x b c).st = s.st := rfl
@[simp] theorem State.setRegFlag_acc (s : State) (x : Nibble) (b : Byte) (c : Bool) : (s.setRegFlag x b c).acc = s.acc := rfl
@[simp] theorem State.setRegFlag_disp (s : State) (x : Nibble) (b : Byte) (c : Bool) : (s.setRegFlag x b c).disp = s.disp := rfl
@[simp] theorem State.setRegFlag_keyPrev (s : State) (x : Nibble) (b : Byte) (c : Bool) : (s.setRegFlag x b c).keyPrev = s.keyPrev := rfl
@[simp] theorem State.setRegFlag_quirk (s : State) (x : Nibble) (b : Byte) (c : Bool) : (s.setRegFlag x b c).quirk = s.quirk := rfl
@[simp] theorem State.setRegFlag_halted (s : State) (x : Nibble) (b : Byte) (c : Bool) : (s.setRegFlag x b c).halted = s.halted := rfl
@[simp] theorem State.setRegFlag_faultCause (s : State) (x : Nibble) (b : Byte) (c : Bool) : (s.setRegFlag x b c).faultCause = s.faultCause := rfl
@[simp] theorem State.setRegFlag_faultAddr (s : State) (x : Nibble) (b : Byte) (c : Bool) : (s.setRegFlag x b c).faultAddr = s.faultAddr := rfl
@[simp] theorem State.setRegFlag_faultInfo (s : State) (x : Nibble) (b : Byte) (c : Bool) : (s.setRegFlag x b c).faultInfo = s.faultInfo := rfl
@[simp] theorem State.setRegFlag_inputs (s : State) (x : Nibble) (b : Byte) (c : Bool) : (s.setRegFlag x b c).inputs = s.inputs := rfl
@[simp] theorem State.setRegFlag_stepNo (s : State) (x : Nibble) (b : Byte) (c : Bool) : (s.setRegFlag x b c).stepNo = s.stepNo := rfl

@[simp] theorem State.setRegLogic_mem (s : State) (x : Nibble) (b : Byte) : (s.setRegLogic x b).mem = s.mem := by unfold State.setRegLogic; split <;> rfl
@[simp] theorem State.setRegLogic_pc (s : State) (x : Nibble) (b : Byte) : (s.setRegLogic x b).pc = s.pc := by unfold State.setRegLogic; split <;> rfl
@[simp] theorem State.setRegLogic_index (s : State) (x : Nibble) (b : Byte) : (s.setRegLogic x b).index = s.index := by unfold State.setRegLogic; split <;> rfl
@[simp] theorem State.setRegLogic_stack (s : State) (x : Nibble) (b : Byte) : (s.setRegLogic x b).stack = s.stack := by unfold State.setRegLogic; split <;> rfl
@[simp] theorem State.setRegLogic_sp (s : State) (x : Nibble) (b : Byte) : (s.setRegLogic x b).sp = s.sp := by unfold State.setRegLogic; split <;> rfl
@[simp] theorem State.setRegLogic_dt (s : State) (x : Nibble) (b : Byte) : (s.setRegLogic x b).dt = s.dt := by unfold State.setRegLogic; split <;> rfl
@[simp] theorem State.setRegLogic_st (s : State) (x : Nibble) (b : Byte) : (s.setRegLogic x b).st = s.st := by unfold State.setRegLogic; split <;> rfl
@[simp] theorem State.setRegLogic_acc (s : State) (x : Nibble) (b : Byte) : (s.setRegLogic x b).acc = s.acc := by unfold State.setRegLogic; split <;> rfl
@[simp] theorem State.setRegLogic_disp (s : State) (x : Nibble) (b : Byte) : (s.setRegLogic x b).disp = s.disp := by unfold State.setRegLogic; split <;> rfl
@[simp] theorem State.setRegLogic_keyPrev (s : State) (x : Nibble) (b : Byte) : (s.setRegLogic x b).keyPrev = s.keyPrev := by unfold State.setRegLogic; split <;> rfl
@[simp] theorem State.setRegLogic_quirk (s : State) (x : Nibble) (b : Byte) : (s.setRegLogic x b).quirk = s.quirk := by unfold State.setRegLogic; split <;> rfl
@[simp] theorem State.setRegLogic_halted (s : State) (x : Nibble) (b : Byte) : (s.setRegLogic x b).halted = s.halted := by unfold State.setRegLogic; split <;> rfl
@[simp] theorem State.setRegLogic_faultCause (s : State) (x : Nibble) (b : Byte) : (s.setRegLogic x b).faultCause = s.faultCause := by unfold State.setRegLogic; split <;> rfl
@[simp] theorem State.setRegLogic_faultAddr (s : State) (x : Nibble) (b : Byte) : (s.setRegLogic x b).faultAddr = s.faultAddr := by unfold State.setRegLogic; split <;> rfl
@[simp] theorem State.setRegLogic_faultInfo (s : State) (x : Nibble) (b : Byte) : (s.setRegLogic x b).faultInfo = s.faultInfo := by unfold State.setRegLogic; split <;> rfl
@[simp] theorem State.setRegLogic_inputs (s : State) (x : Nibble) (b : Byte) : (s.setRegLogic x b).inputs = s.inputs := by unfold State.setRegLogic; split <;> rfl
@[simp] theorem State.setRegLogic_stepNo (s : State) (x : Nibble) (b : Byte) : (s.setRegLogic x b).stepNo = s.stepNo := by unfold State.setRegLogic; split <;> rfl

@[simp] theorem State.bumpIndex_mem (s : State) (k : Nat) : (s.bumpIndex k).mem = s.mem := by unfold State.bumpIndex; split <;> rfl
@[simp] theorem State.bumpIndex_v (s : State) (k : Nat) : (s.bumpIndex k).v = s.v := by unfold State.bumpIndex; split <;> rfl
@[simp] theorem State.bumpIndex_pc (s : State) (k : Nat) : (s.bumpIndex k).pc = s.pc := by unfold State.bumpIndex; split <;> rfl
@[simp] theorem State.bumpIndex_stack (s : State) (k : Nat) : (s.bumpIndex k).stack = s.stack := by unfold State.bumpIndex; split <;> rfl
@[simp] theorem State.bumpIndex_sp (s : State) (k : Nat) : (s.bumpIndex k).sp = s.sp := by unfold State.bumpIndex; split <;> rfl
@[simp] theorem State.bumpIndex_dt (s : State) (k : Nat) : (s.bumpIndex k).dt = s.dt := by unfold State.bumpIndex; split <;> rfl
@[simp] theorem State.bumpIndex_st (s : State) (k : Nat) : (s.bumpIndex k).st = s.st := by unfold State.bumpIndex; split <;> rfl
@[simp] theorem State.bumpIndex_acc (s : State) (k : Nat) : (s.bumpIndex k).acc = s.acc := by unfold State.bumpIndex; split <;> rfl
@[simp] theorem State.bumpIndex_disp (s : State) (k : Nat) : (s.bumpIndex k).disp = s.disp := by unfold State.bumpIndex; split <;> rfl
@[simp] theorem State.bumpIndex_keyPrev (s : State) (k : Nat) : (s.bumpIndex k).keyPrev = s.keyPrev := by unfold State.bumpIndex; split <;> rfl
@[simp] theorem State.bumpIndex_quirk (s : State) (k : Nat) : (s.bumpIndex k).quirk = s.quirk := by unfold State.bumpIndex; split <;> rfl
@[simp] theorem State.bumpIndex_halted (s : State) (k : Nat) : (s.bumpIndex k).halted = s.halted := by unfold State.bumpIndex; split <;> rfl
@[simp] theorem State.bumpIndex_faultCause (s : State) (k : Nat) : (s.bumpIndex k).faultCause = s.faultCause := by unfold State.bumpIndex; split <;> rfl
@[simp] theorem State.bumpIndex_faultAddr (s : State) (k : Nat) : (s.bumpIndex k).faultAddr = s.faultAddr := by unfold State.bumpIndex; split <;> rfl
@[simp] theorem State.bumpIndex_faultInfo (s : State) (k : Nat) : (s.bumpIndex k).faultInfo = s.faultInfo := by unfold State.bumpIndex; split <;> rfl
@[simp] theorem State.bumpIndex_inputs (s : State) (k : Nat) : (s.bumpIndex k).inputs = s.inputs := by unfold State.bumpIndex; split <;> rfl
@[simp] theorem State.bumpIndex_stepNo (s : State) (k : Nat) : (s.bumpIndex k).stepNo = s.stepNo := by unfold State.bumpIndex; split <;> rfl

@[simp] theorem State.addIndex_mem (s : State) (b : Byte) : (s.addIndex b).mem = s.mem := by unfold State.addIndex; dsimp only; split <;> rfl
@[simp] theorem State.addIndex_pc (s : State) (b : Byte) : (s.addIndex b).pc = s.pc := by unfold State.addIndex; dsimp only; split <;> rfl
@[simp] theorem State.addIndex_stack (s : State) (b : Byte) : (s.addIndex b).stack = s.stack := by unfold State.addIndex; dsimp only; split <;> rfl
@[simp] theorem State.addIndex_sp (s : State) (b : Byte) : (s.addIndex b).sp = s.sp := by unfold State.addIndex; dsimp only; split <;> rfl
@[simp] theorem State.addIndex_dt (s : State) (b : Byte) : (s.addIndex b).dt = s.dt := by unfold State.addIndex; dsimp only; split <;> rfl
@[simp] theorem State.addIndex_st (s : State) (b : Byte) : (s.addIndex b).st = s.st := by unfold State.addIndex; dsimp only; split <;> rfl
@[simp] theorem State.addIndex_acc (s : State) (b : Byte) : (s.addIndex b).acc = s.acc := by unfold State.addIndex; dsimp only; split <;> rfl
@[simp] theorem State.addIndex_disp (s : State) (b : Byte) : (s.addIndex b).disp = s.disp := by unfold State.addIndex; dsimp only; split <;> rfl
@[simp] theorem State.addIndex_keyPrev (s : State) (b : Byte) : (s.addIndex b).keyPrev = s.keyPrev := by unfold State.addIndex; dsimp only; split <;> rfl
@[simp] theorem State.addIndex_quirk (s : State) (b : Byte) : (s.addIndex b).quirk = s.quirk := by unfold State.addIndex; dsimp only; split <;> rfl
@[simp] theorem State.addIndex_halted (s : State) (b : Byte) : (s.addIndex b).halted = s.halted := by unfold State.addIndex; dsimp only; split <;> rfl
@[simp] theorem State.addIndex_faultCause (s : State) (b : Byte) : (s.addIndex b).faultCause = s.faultCause := by unfold State.addIndex; dsimp only; split <;> rfl
@[simp] theorem State.addIndex_faultAddr (s : State) (b : Byte) : (s.addIndex b).faultAddr = s.faultAddr := by unfold State.addIndex; dsimp only; split <;> rfl
@[simp] theorem State.addIndex_faultInfo (s : State) (b : Byte) : (s.addIndex b).faultInfo = s.faultInfo := by unfold State.addIndex; dsimp only; split <;> rfl
@[simp] theorem State.addIndex_inputs (s : State) (b : Byte) : (s.addIndex b).inputs = s.inputs := by unfold State.addIndex; dsimp only; split <;> rfl
@[simp] theorem State.addIndex_stepNo (s : State) (b : Byte) : (s.addIndex b).stepNo = s.stepNo := by unfold State.addIndex; dsimp only; split <;> rfl

theorem State.skipIf_pc (s : State) (c : Bool) : (s.skipIf c).pc = if c then s.pc + 2 else s.pc := by
  cases c <;> rfl

theorem State.bumpIndex_index (s : State) (k : Nat) :
    (s.bumpIndex k).index = if s.quirk then indexOfNat (s.index.toNat + k) else s.index := by
  unfold State.bumpIndex; split <;> rfl

/-! ## The inputs of the step depend on the model's two input fields only -/

theorem State.now_congr {s t : State} (h : t.inputs = s.inputs) (k : t.stepNo = s.stepNo) : t.now = s.now := by
  unfold State.now; rw [h, k]

@[simp] theorem State.advance_now (s : State) : s.advance.now = s.now := rfl
@[simp] theorem timerTick_now (s : State) (e : BitVec 32) : (timerTick e s).now = s.now := rfl

/-! ## Reading a register after writing one -/

theorem State.reg_congr {s t : State} (h : t.v = s.v) (x : Nibble) : t.reg x = s.reg x := by
  unfold State.reg; simp only [h]

@[simp] theorem State.setReg_reg_same (s : State) (x : Nibble) (b : Byte) : (s.setReg x b).reg x = b := by
  simp [State.reg]

theorem State.setReg_reg_other (s : State) {x r : Nibble} (b : Byte) (h : r ≠ x) : (s.setReg x b).reg r = s.reg r := by
  have : x.toNat ≠ r.toNat := fun e => h (BitVec.eq_of_toNat_eq e.symm)
  simp [State.reg, this]

theorem State.setReg_reg (s : State) (x r : Nibble) (b : Byte) :
    (s.setReg x b).reg r = if r = x then b else s.reg r := by
  by_cases h : r = x
  · subst h; simp
  · simp [h, State.setReg_reg_other]

theorem State.setVF_reg (s : State) (r : Nibble) (b : Byte) :
    (s.setVF b).reg r = if r = 0xF then b else s.reg r := State.setReg_reg s 0xF r b

/-- Vx then VF: every register after a flag-writing instruction (42_alu R163). -/
theorem State.setRegFlag_reg (s : State) (x r : Nibble) (b : Byte) (c : Bool) :
    (s.setRegFlag x b c).reg r = if r = 0xF then flagByte c else if r = x then b else s.reg r := by
  rw [State.setRegFlag, State.setVF_reg, State.setReg_reg]

/-- Vx then, in quirk mode, VF: every register after a logic instruction (42_alu R154). -/
theorem State.setRegLogic_reg (s : State) (x r : Nibble) (b : Byte) :
    (s.setRegLogic x b).reg r = if s.quirk ∧ r = 0xF then 0 else if r = x then b else s.reg r := by
  unfold State.setRegLogic
  by_cases q : s.quirk = true
  · simp only [q, if_true, State.setVF_reg, State.setReg_reg, true_and]
  · simp only [q, Bool.false_eq_true, if_false, false_and, State.setReg_reg]

theorem State.show_reg (s : State) (d : Canvas) (r : Nibble) :
    (s.show d).reg r = if r = 0xF then flagByte d.hit else s.reg r := by
  rw [State.show, State.setVF_reg]; rfl

@[simp] theorem timerTick_reg (s : State) (e : BitVec 32) (x : Nibble) : (timerTick e s).reg x = s.reg x := rfl
@[simp] theorem State.advance_reg (s : State) (x : Nibble) : s.advance.reg x = s.reg x := rfl
@[simp] theorem State.setIndex_reg (s : State) (a : Word) (x : Nibble) : (s.setIndex a).reg x = s.reg x := rfl
@[simp] theorem State.setMem_reg (s : State) (m : Memory) (x : Nibble) : (s.setMem m).reg x = s.reg x := rfl
@[simp] theorem State.setDisp_reg (s : State) (d : Display) (x : Nibble) : (s.setDisp d).reg x = s.reg x := rfl
@[simp] theorem State.setDT_reg (s : State) (b : Byte) (x : Nibble) : (s.setDT b).reg x = s.reg x := rfl
@[simp] theorem State.setST_reg (s : State) (b : Byte) (x : Nibble) : (s.setST b).reg x = s.reg x := rfl
@[simp] theorem State.jump_reg (s : State) (a : Word) (x : Nibble) : (s.jump a).reg x = s.reg x := rfl
@[simp] theorem State.rewind_reg (s : State) (x : Nibble) : s.rewind.reg x = s.reg x := rfl
@[simp] theorem State.skip_reg (s : State) (x : Nibble) : s.skip.reg x = s.reg x := rfl
@[simp] theorem State.skipIf_reg (s : State) (c : Bool) (x : Nibble) : (s.skipIf c).reg x = s.reg x := by cases c <;> rfl
@[simp] theorem State.raise_reg (s : State) (f : Fault) (i : Word) (x : Nibble) : (s.raise f i).reg x = s.reg x := rfl
@[simp] theorem State.bumpIndex_reg (s : State) (k : Nat) (x : Nibble) : (s.bumpIndex k).reg x = s.reg x :=
  State.reg_congr (State.bumpIndex_v s k) x

end Sys2Proof.Machine
end

