-- ==== Sys2Proof/Laws/Ops.lean ====
section
/-!
SUPPORT. One lemma per shared operation that says everything it can do; proofs cite these instead of unfolding.
-/

namespace Sys2Proof.Machine

/-- The bounds check: in memory it continues, above memory it raises. -/
theorem State.withDataBound_cases (s : State) (highest : Nat) (k : State) :
    (highest ≤ 0xFFF ∧ s.withDataBound highest k = k) ∨
    (0xFFF < highest ∧ s.withDataBound highest k = s.raise .dataAddressOutOfBounds (BitVec.ofNat 16 highest)) := by
  unfold State.withDataBound Config.addrMax
  split
  · exact .inr ⟨by omega, rfl⟩
  · exact .inl ⟨by omega, rfl⟩

/-- The key index check: an index 0 to 15 continues, a larger one raises. -/
theorem State.withKeyIndex_cases (s : State) (b : Byte) (k : Fin 16 → State) :
    (∃ h : b.toNat < 16, s.withKeyIndex b k = k ⟨b.toNat, h⟩) ∨
    (16 ≤ b.toNat ∧ s.withKeyIndex b k = s.raise .keyIndexOutOfRange (b.setWidth 16)) := by
  unfold State.withKeyIndex
  split
  · next h => exact .inl ⟨h, rfl⟩
  · exact .inr ⟨by omega, rfl⟩

/-- A push: below 64 entries it stores the value and continues, at 64 it raises. -/
theorem State.push_cases (s : State) (value ins : Word) (k : State → State) :
    (∃ h : s.sp.val < 64, s.push value ins k =
      k { s with stack := s.stack.set s.sp.val value h, sp := ⟨s.sp.val + 1, Nat.succ_lt_succ h⟩ }) ∨
    (s.sp.val = 64 ∧ s.push value ins k = s.raise .stackOverflow ins) := by
  unfold State.push
  split
  · next h => exact .inl ⟨h, rfl⟩
  · exact .inr ⟨by have := s.sp.isLt; omega, rfl⟩

/-- A pop: with an entry in use it answers the newest and continues, with none it raises. -/
theorem State.pop_cases (s : State) (ins : Word) (k : Word → State → State) :
    (∃ (h : s.sp.val - 1 < 64) (h' : s.sp.val - 1 < 65), 0 < s.sp.val ∧
      s.pop ins k = k (s.stack[s.sp.val - 1]) { s with sp := ⟨s.sp.val - 1, h'⟩ }) ∨
    (s.sp.val = 0 ∧ s.pop ins k = s.raise .stackUnderflow ins) := by
  unfold State.pop
  split
  · next h => exact .inl ⟨by have := s.sp.isLt; omega, by have := s.sp.isLt; omega, h, rfl⟩
  · exact .inr ⟨by omega, rfl⟩

/-- The sum into the index register: both cases of 43_index_memory R182. -/
theorem State.addIndex_cases (s : State) (b : Byte) :
    (s.index.toNat + b.toNat < 4096 ∧ s.addIndex b = s.setIndex (BitVec.ofNat 16 (s.index.toNat + b.toNat))) ∨
    (4096 ≤ s.index.toNat + b.toNat ∧
      s.addIndex b = (s.setIndex (indexOfNat (s.index.toNat + b.toNat))).setVF 1) := by
  by_cases h : s.index.toNat + b.toNat ≥ 4096
  · exact .inr ⟨h, if_pos h⟩
  · exact .inl ⟨by omega, if_neg h⟩

/-- A draw that is not blocked: no rows, rows in memory, or rows above memory. -/
theorem State.draw_cases (s : State) (x y n : Nibble) :
    (s.spriteRows y n = 0 ∧ s.draw x y n = s.show ⟨s.disp, false⟩) ∨
    (0 < s.spriteRows y n ∧ s.index.toNat + (s.spriteRows y n - 1) ≤ 0xFFF ∧ s.draw x y n = s.show (s.sprite x y n)) ∨
    (0 < s.spriteRows y n ∧ 0xFFF < s.index.toNat + (s.spriteRows y n - 1) ∧ s.draw x y n =
      s.raise .dataAddressOutOfBounds (BitVec.ofNat 16 (s.index.toNat + (s.spriteRows y n - 1)))) := by
  by_cases h : s.spriteRows y n = 0
  · exact .inl ⟨h, if_pos h⟩
  · have e : s.draw x y n = s.withDataBound (s.dataAddr (s.spriteRows y n - 1)) (s.show (s.sprite x y n)) := if_neg h
    rw [e]
    rcases State.withDataBound_cases s (s.dataAddr (s.spriteRows y n - 1)) (s.show (s.sprite x y n)) with ⟨a, b⟩ | ⟨a, b⟩
    · exact .inr (.inl ⟨by omega, a, b⟩)
    · exact .inr (.inr ⟨by omega, a, b⟩)

/-- The members of a set of keys. -/
theorem mem_keyList (r : Keys) (k : Fin 16) : k ∈ keyList r ↔ r[k.val] = true := by
  simp [keyList]

/-- KEY_PICK answers a member (45_keypad_timer R222). -/
theorem keyPick_mem {r : Keys} {k : Fin 16} (h : keyPick r = some k) : r[k.val] = true := by
  unfold keyPick at h
  split at h
  · cases h
  · next h' => cases h; rw [← mem_keyList, h']; simp
  · next k' l _ h' =>
    split at h
    · next hh => cases h; exact hh
    · cases h; rw [← mem_keyList, h']; simp

/-- KEY_PICK answers nothing exactly for the empty set. -/
theorem keyPick_none {r : Keys} : keyPick r = none ↔ ∀ k : Fin 16, r[k.val] = false := by
  constructor
  · intro h k
    unfold keyPick at h
    split at h
    · next h' =>
      cases hk : r[k.val]
      · rfl
      · rw [← mem_keyList, h'] at hk; cases hk
    · cases h
    · split at h <;> cases h
  · intro h
    have : keyList r = [] := List.eq_nil_iff_forall_not_mem.2 fun k hk => by
      rw [mem_keyList, h k] at hk; cases hk
    unfold keyPick; rw [this]

theorem State.released_getElem (s : State) (k : Fin 16) :
    s.released[k.val] = (s.keyPrev[k.val] && !s.now.keyNow[k.val]) := by
  simp [State.released, State.keyDown]

/-! ## Frames -/

/-- Writing one register of the list changes only registers of the list. -/
theorem onlyRegs_setReg (s : State) {x : Nibble} (b : Byte) {l : List Nibble} (h : x ∈ l) : OnlyRegs l s (s.setReg x b) :=
  ⟨fun _ hr => State.setReg_reg_other s b fun e => hr (e ▸ h), rfl, rfl, fun _ => rfl,
    ⟨rfl, rfl, rfl, rfl, rfl, rfl, rfl, rfl, rfl, rfl⟩, ⟨rfl, rfl, rfl, rfl⟩⟩

/-- The frame of two updates in a row. -/
theorem onlyRegs_trans {l : List Nibble} {s t u : State} (a : OnlyRegs l s t) (b : OnlyRegs l t u) : OnlyRegs l s u := by
  obtain ⟨a1, a2, a3, a4, a5, a6⟩ := a
  obtain ⟨b1, b2, b3, b4, b5, b6⟩ := b
  refine ⟨fun r h => (b1 r h).trans (a1 r h), b2.trans a2, b3.trans a3, fun x => (b4 x).trans (a4 x), ?_, ?_⟩
  · simp_all [SameSpecial]
  · simp_all [SameRecord]

/-- An update of the program counter alone. -/
theorem onlyPc_jump (s : State) (a : Word) : OnlyPc s (s.jump a) :=
  ⟨fun _ _ => rfl, rfl, fun _ => rfl, ⟨rfl, rfl, rfl, rfl, rfl, rfl, rfl, rfl, rfl, rfl⟩, ⟨rfl, rfl, rfl, rfl⟩⟩

/-- A word and the encoding of an instruction. -/
theorem encodes_of_encode {i : Instr} {w : Nat} (hd : decodeWord (encode i) = .ok i) (h : (encode i).toNat = w) : Encodes i w := by
  subst h
  exact ⟨(encode i).isLt, by rw [BitVec.ofNat_toNat, BitVec.setWidth_eq]; exact hd⟩

/-! ## Sprite coordinates and the quirk-mode increment -/

theorem State.originRow_eq (s : State) (y : Nibble) : s.originRow y = (if y = 0xF then 0 else (s.reg y).toNat) % 32 := by
  unfold State.originRow State.coord; split <;> simp

theorem State.originCol_eq (s : State) (x : Nibble) : s.originCol x = (if x = 0xF then 0 else (s.reg x).toNat) % 64 := by
  unfold State.originCol State.coord; split <;> simp

/-- The quirk-mode increment writes the index register and nothing else. -/
theorem State.bumpIndex_spec (s : State) (k : Nat) :
    (s.bumpIndex k).index.toNat = (if s.quirk = true then (s.index.toNat + k) % 4096 else s.index.toNat) ∧
    s.bumpIndex k = { s with index := (s.bumpIndex k).index } := by
  unfold State.bumpIndex
  split <;> simp [indexOfNat, State.setIndex]
  omega

end Sys2Proof.Machine
end

