-- ==== Sys2Proof/Laws/Screen.lean ====
section
/-!
SUPPORT. The display: what one toggle does to each pixel, and which pixels a sprite can reach.
-/

namespace Sys2Proof.Machine

@[simp] theorem Display.get_blank (r c : Nat) : Display.get Display.blank r c = false := by
  unfold Display.get Display.blank; split <;> simp

/-- A toggle inside the display changes its own pixel and no other. -/
theorem Display.get_flip (d : Display) {r c : Nat} (h : r < 32 ∧ c < 64) (r' c' : Nat) :
    Display.get (Display.flip d r c) r' c' = (Display.get d r' c' ^^ (decide (r' = r ∧ c' = c))) := by
  unfold Display.flip
  rw [dif_pos h]
  unfold Display.get
  by_cases h' : r' < 32 ∧ c' < 64
  · rw [dif_pos h', dif_pos h', Vector.getElem_set]
    by_cases hr : r = r'
    · subst hr
      simp only [if_true, Vector.getElem_set]
      by_cases hc : c = c'
      · subst hc; simp
      · have : ¬ c' = c := fun e => hc e.symm
        simp [hc, this]
    · have : ¬ r' = r := fun e => hr e.symm
      simp [hr, this]
  · rw [dif_neg h', dif_neg h']
    have : ¬ (r' = r ∧ c' = c) := fun e => h' (by rw [e.1, e.2]; exact h)
    simp [this]

/-- A toggle outside the display changes nothing. -/
theorem Display.flip_outside (d : Display) {r c : Nat} (h : ¬ (r < 32 ∧ c < 64)) : Display.flip d r c = d := by
  unfold Display.flip; rw [dif_neg h]

/-- The display's pixels determine it. -/
theorem Display.ext_get {d e : Display} (h : ∀ r c, r < 32 → c < 64 → Display.get d r c = Display.get e r c) : d = e := by
  apply Vector.ext
  intro r hr
  apply Vector.ext
  intro c hc
  have := h r c hr hc
  simpa [Display.get, hr, hc] using this

theorem toggle_disp (r c : Nat) (d : Canvas) : (toggle r c d).disp = d.disp.flip r c := rfl

theorem toggle_hit (r c : Nat) (d : Canvas) : (toggle r c d).hit = (d.hit || d.disp.get r c) := rfl

/-- A draw of no columns and a draw of no rows. -/
@[simp] theorem drawCols_zero (b : Byte) (r x0 : Nat) (d : Canvas) : drawCols b r x0 0 d = d := rfl

@[simp] theorem drawRows_zero (m : Memory) (base y0 x0 : Nat) (d : Canvas) : drawRows m base y0 x0 0 d = d := rfl

/-- Columns drawn in display row `r`: every pixel is exchanged exactly where the sprite row has a bit, and a
collision is a bit over a set pixel. -/
theorem drawCols_spec (b : Byte) {r : Nat} (hr : r < 32) (x0 k : Nat) (d : Canvas) :
    (∀ r' c', Display.get (drawCols b r x0 k d).disp r' c' =
      (Display.get d.disp r' c' ^^ decide (r' = r ∧ x0 ≤ c' ∧ c' < x0 + k ∧ c' ≤ 63 ∧ b.getLsbD (7 - (c' - x0)) = true))) ∧
    ((drawCols b r x0 k d).hit = true ↔ d.hit = true ∨
      ∃ c, x0 ≤ c ∧ c < x0 + k ∧ c ≤ 63 ∧ b.getLsbD (7 - (c - x0)) = true ∧ Display.get d.disp r c = true) := by
  induction k with
  | zero =>
    refine ⟨fun r' c' => ?_, ?_⟩
    · have : ¬ (r' = r ∧ x0 ≤ c' ∧ c' < x0 + 0 ∧ c' ≤ 63 ∧ b.getLsbD (7 - (c' - x0)) = true) := by omega
      simp only [drawCols_zero, this, decide_false, Bool.xor_false]
    · simp only [drawCols_zero]
      exact ⟨Or.inl, fun h => h.elim id fun ⟨c, h1, h2, _⟩ => by omega⟩
  | succ k ih =>
    obtain ⟨ihp, ihh⟩ := ih
    simp only [drawCols]
    split
    · next hb =>
      obtain ⟨hcol, hbit⟩ := hb
      refine ⟨fun r' c' => ?_, ?_⟩
      · rw [toggle_disp, Display.get_flip _ ⟨hr, by omega⟩, ihp, Bool.xor_assoc]
        congr 1
        by_cases hc : r' = r ∧ c' = x0 + k
        · obtain ⟨rfl, rfl⟩ := hc
          have h1 : ¬ (r' = r' ∧ x0 ≤ x0 + k ∧ x0 + k < x0 + k ∧ x0 + k ≤ 63 ∧ b.getLsbD (7 - (x0 + k - x0)) = true) := by omega
          have h2 : (r' = r' ∧ x0 ≤ x0 + k ∧ x0 + k < x0 + (k + 1) ∧ x0 + k ≤ 63 ∧ b.getLsbD (7 - (x0 + k - x0)) = true) := by
            refine ⟨rfl, by omega, by omega, hcol, ?_⟩
            rwa [Nat.add_sub_cancel_left]
          rw [decide_eq_false h1, decide_eq_true h2, decide_eq_true ⟨rfl, rfl⟩]
          rfl
        · simp only [hc, decide_false, Bool.xor_false]
          congr 1
          apply propext
          constructor
          · rintro ⟨a, b1, c1, d1⟩; exact ⟨a, b1, by omega, d1⟩
          · rintro ⟨a, b1, c1, d1⟩; exact ⟨a, b1, by omega, d1⟩
      · rw [toggle_hit, Bool.or_eq_true, ihh, ihp]
        have h1 : ¬ (r = r ∧ x0 ≤ x0 + k ∧ x0 + k < x0 + k ∧ x0 + k ≤ 63 ∧ b.getLsbD (7 - (x0 + k - x0)) = true) := by omega
        rw [decide_eq_false h1, Bool.xor_false]
        constructor
        · rintro ((h | ⟨c, a1, a2, a3⟩) | h)
          · exact .inl h
          · exact .inr ⟨c, a1, by omega, a3⟩
          · exact .inr ⟨x0 + k, by omega, by omega, hcol, by rwa [Nat.add_sub_cancel_left], h⟩
        · rintro (h | ⟨c, a1, a2, a3, a4, a5⟩)
          · exact .inl (.inl h)
          · by_cases hc : c = x0 + k
            · subst hc; exact .inr a5
            · exact .inl (.inr ⟨c, a1, by omega, a3, a4, a5⟩)
    · next hb =>
      have hno : ∀ c, ¬ (c = x0 + k ∧ c ≤ 63 ∧ b.getLsbD (7 - (c - x0)) = true) := by
        rintro c ⟨rfl, h1, h2⟩
        rw [Nat.add_sub_cancel_left] at h2
        exact hb ⟨h1, h2⟩
      refine ⟨fun r' c' => ?_, ?_⟩
      · rw [ihp]
        congr 2
        apply propext
        constructor
        · rintro ⟨a, b1, c1, d1⟩; exact ⟨a, b1, by omega, d1⟩
        · rintro ⟨a, b1, c1, d1, e1⟩
          exact ⟨a, b1, by have := hno c'; by_cases hc : c' = x0 + k; exact absurd ⟨hc, d1, e1⟩ this; omega, d1, e1⟩
      · rw [ihh]
        constructor
        · rintro (h | ⟨c, a1, a2, a3⟩)
          · exact .inl h
          · exact .inr ⟨c, a1, by omega, a3⟩
        · rintro (h | ⟨c, a1, a2, a3, a4, a5⟩)
          · exact .inl h
          · exact .inr ⟨c, a1, by have := hno c; by_cases hc : c = x0 + k; exact absurd ⟨hc, a3, a4⟩ this; omega, a3, a4, a5⟩

/-- A sprite of `k` rows that fits below `y0`: every pixel is exchanged exactly where the sprite has a bit, and a collision is a
bit over a pixel that was set before the draw. -/
theorem drawRows_spec (m : Memory) (base y0 x0 k : Nat) (hk : y0 + k ≤ 32) (d : Canvas) :
    (∀ r c, Display.get (drawRows m base y0 x0 k d).disp r c =
      (Display.get d.disp r c ^^ decide (y0 ≤ r ∧ r < y0 + k ∧ x0 ≤ c ∧ c < x0 + 8 ∧ c ≤ 63 ∧
        (m.read (base + (r - y0))).getLsbD (7 - (c - x0)) = true))) ∧
    ((drawRows m base y0 x0 k d).hit = true ↔ d.hit = true ∨
      ∃ r c, y0 ≤ r ∧ r < y0 + k ∧ x0 ≤ c ∧ c < x0 + 8 ∧ c ≤ 63 ∧
        (m.read (base + (r - y0))).getLsbD (7 - (c - x0)) = true ∧ Display.get d.disp r c = true) := by
  induction k with
  | zero =>
    refine ⟨fun r c => ?_, ?_⟩
    · rw [decide_eq_false (by omega)]; simp
    · simp only [drawRows_zero]
      exact ⟨Or.inl, fun h => h.elim id fun ⟨r, c, h1, h2, _⟩ => by omega⟩
  | succ k ih =>
    obtain ⟨ihp, ihh⟩ := ih (by omega)
    obtain ⟨cp, ch⟩ := drawCols_spec (m.read (base + k)) (r := y0 + k) (by omega) x0 8 (drawRows m base y0 x0 k d)
    simp only [drawRows]
    refine ⟨fun r c => ?_, ?_⟩
    · rw [cp, ihp, Bool.xor_assoc]
      congr 1
      by_cases hr : r = y0 + k
      · subst hr
        rw [decide_eq_false (by omega), Bool.false_xor]
        apply decide_eq_decide.2
        rw [Nat.add_sub_cancel_left]
        constructor
        · rintro ⟨_, a⟩; exact ⟨by omega, by omega, a⟩
        · rintro ⟨_, _, a⟩; exact ⟨rfl, a⟩
      · rw [decide_eq_false (p := r = y0 + k ∧ _) (fun h => hr h.1), Bool.xor_false]
        apply decide_eq_decide.2
        constructor
        · rintro ⟨a, b, c⟩; exact ⟨a, by omega, c⟩
        · rintro ⟨a, b, c⟩; exact ⟨a, by omega, c⟩
    · rw [ch, ihh]
      constructor
      · rintro ((h | ⟨r, c, a, b, e⟩) | ⟨c, a1, a2, a3, a4, a5⟩)
        · exact .inl h
        · exact .inr ⟨r, c, a, by omega, e⟩
        · rw [ihp, decide_eq_false (by omega), Bool.xor_false] at a5
          exact .inr ⟨y0 + k, c, by omega, by omega, a1, a2, a3, by rwa [Nat.add_sub_cancel_left], a5⟩
      · rintro (h | ⟨r, c, a, b, a1, a2, a3, a4, a5⟩)
        · exact .inl (.inl h)
        · by_cases hr : r = y0 + k
          · subst hr; rw [Nat.add_sub_cancel_left] at a4
            refine .inr ⟨c, a1, a2, a3, a4, ?_⟩
            rw [ihp, decide_eq_false (by omega), Bool.xor_false]; exact a5
          · exact .inl (.inr ⟨r, c, a, by omega, a1, a2, a3, a4, a5⟩)

end Sys2Proof.Machine
end

