-- ==== Sys2Proof/Laws/Cycle.lean ====
section
/-!
SUPPORT. What a step can do, said once (40_step_cycle R114), and what the execute phase never touches.
-/

namespace Sys2Proof.Machine

/-! ## Fetch -/

theorem fetch_eq_none {s : State} (h : 0xFFE < s.pc.toNat) : fetch s = none := if_pos h

theorem fetch_eq_some {s : State} (h : s.pc.toNat ≤ 0xFFE) : fetch s = some (readWord s.mem s.pc.toNat) :=
  if_neg (by omega)

theorem fetch_timerTick (s : State) (e : BitVec 32) : fetch (timerTick e s) = fetch s := rfl

/-! ## The timer phase -/

/-- The timer phase in numbers (60_exceptions R258): each timer drops by the whole intervals, floored at 0, and the remainder stays. -/
theorem timerTick_toNat (s : State) (e : BitVec 32) :
    (timerTick e s).dt.toNat = s.dt.toNat - (s.acc.toNat + e.toNat) / 16667 ∧
    (timerTick e s).st.toNat = s.st.toNat - (s.acc.toNat + e.toNat) / 16667 ∧
    (timerTick e s).acc.toNat = (s.acc.toNat + e.toNat) % 16667 := by
  have := s.dt.isLt
  have := s.st.isLt
  simp [timerAfter, Config.timerInterval]
  omega

/-! ## The end of a step -/

theorem State.endStep_halted {s : State} (h : s.halted = true) : s.endStep = s.consume := if_pos h

theorem State.endStep_running {s : State} (h : s.halted = false) : s.endStep = s.latch.consume := by
  unfold State.endStep; rw [h]; rfl

@[simp] theorem State.endStep_pc (s : State) : s.endStep.pc = s.pc := by unfold State.endStep; split <;> rfl
@[simp] theorem State.endStep_mem (s : State) : s.endStep.mem = s.mem := by unfold State.endStep; split <;> rfl
@[simp] theorem State.endStep_v (s : State) : s.endStep.v = s.v := by unfold State.endStep; split <;> rfl
@[simp] theorem State.endStep_index (s : State) : s.endStep.index = s.index := by unfold State.endStep; split <;> rfl
@[simp] theorem State.endStep_stack (s : State) : s.endStep.stack = s.stack := by unfold State.endStep; split <;> rfl
@[simp] theorem State.endStep_sp (s : State) : s.endStep.sp = s.sp := by unfold State.endStep; split <;> rfl
@[simp] theorem State.endStep_dt (s : State) : s.endStep.dt = s.dt := by unfold State.endStep; split <;> rfl
@[simp] theorem State.endStep_st (s : State) : s.endStep.st = s.st := by unfold State.endStep; split <;> rfl
@[simp] theorem State.endStep_acc (s : State) : s.endStep.acc = s.acc := by unfold State.endStep; split <;> rfl
@[simp] theorem State.endStep_disp (s : State) : s.endStep.disp = s.disp := by unfold State.endStep; split <;> rfl
@[simp] theorem State.endStep_quirk (s : State) : s.endStep.quirk = s.quirk := by unfold State.endStep; split <;> rfl
@[simp] theorem State.endStep_isHalted (s : State) : s.endStep.halted = s.halted := by unfold State.endStep; split <;> rfl
@[simp] theorem State.endStep_faultCause (s : State) : s.endStep.faultCause = s.faultCause := by
  unfold State.endStep; split <;> rfl
@[simp] theorem State.endStep_faultAddr (s : State) : s.endStep.faultAddr = s.faultAddr := by
  unfold State.endStep; split <;> rfl
@[simp] theorem State.endStep_faultInfo (s : State) : s.endStep.faultInfo = s.faultInfo := by
  unfold State.endStep; split <;> rfl
@[simp] theorem State.endStep_reg (s : State) (x : Nibble) : s.endStep.reg x = s.reg x := by
  unfold State.endStep; split <;> rfl

/-! ## A step -/

theorem step_halted {s : State} (h : s.halted = true) : step s = .next s := if_pos h

theorem step_running {s : State} (h : s.halted = false) : step s = runStep s := by
  show (if s.halted = true then _ else _) = _
  rw [h]; rfl

/-- Fetch outside memory. -/
theorem step_fetchOutOfBounds {s : State} (h : s.halted = false) (hpc : 0xFFE < s.pc.toNat) :
    step s = .next ((timerTick s.now.elapsedUs s).raiseAt .fetchOutOfBounds s.pc 0).endStep := by
  rw [step_running h]
  unfold runStep
  simp only [fetch_timerTick, fetch_eq_none hpc, timerTick_pc]

/-- An unrecognized word. -/
theorem step_unrecognized {s : State} (h : s.halted = false) (hpc : s.pc.toNat ≤ 0xFFE) {e : DecodeError}
    (hd : decodeWord (readWord s.mem s.pc.toNat) = .refused e) :
    step s = .next ((timerTick s.now.elapsedUs s).raiseAt .unrecognizedInstruction s.pc (readWord s.mem s.pc.toNat)).endStep := by
  rw [step_running h]
  unfold runStep
  simp only [fetch_timerTick, fetch_eq_some hpc, timerTick_pc, hd]

/-- A decoded instruction. -/
theorem step_decoded {s : State} (h : s.halted = false) (hpc : s.pc.toNat ≤ 0xFFE) {i : Instr}
    (hd : decodeWord (readWord s.mem s.pc.toNat) = .ok i) : step s = finish (exec i s.executing) := by
  rw [step_running h]
  unfold runStep
  simp only [fetch_timerTick, fetch_eq_some hpc, hd]
  rfl

/-- Everything a step of a machine that is not halted can do. -/
theorem step_cases {s t : State} (h : s.halted = false) (hs : step s = .next t) :
    (0xFFE < s.pc.toNat ∧ t = ((timerTick s.now.elapsedUs s).raiseAt .fetchOutOfBounds s.pc 0).endStep) ∨
    (s.pc.toNat ≤ 0xFFE ∧ decodeWord (readWord s.mem s.pc.toNat) = .refused (.unrecognized (readWord s.mem s.pc.toNat)) ∧
      t = ((timerTick s.now.elapsedUs s).raiseAt .unrecognizedInstruction s.pc (readWord s.mem s.pc.toNat)).endStep) ∨
    (s.pc.toNat ≤ 0xFFE ∧ ∃ i u, decodeWord (readWord s.mem s.pc.toNat) = .ok i ∧ exec i s.executing = .next u ∧
      t = u.endStep) := by
  by_cases hpc : 0xFFE < s.pc.toNat
  · rw [step_fetchOutOfBounds h hpc] at hs
    cases hs; exact .inl ⟨hpc, rfl⟩
  · have hpc : s.pc.toNat ≤ 0xFFE := by omega
    cases hd : decodeWord (readWord s.mem s.pc.toNat) with
    | refused e =>
      rw [step_unrecognized h hpc hd] at hs
      cases hs
      exact .inr (.inl ⟨hpc, by rw [decodeWord_refused hd], rfl⟩)
    | ok i =>
      rw [step_decoded h hpc hd] at hs
      cases he : exec i s.executing with
      | next u => rw [he] at hs; cases hs; exact .inr (.inr ⟨hpc, i, u, rfl, he, rfl⟩)
      | fault f => rw [he] at hs; cases hs
      | refused r => rw [he] at hs; cases hs

/-! ## The state of the execute phase -/

@[simp] theorem State.executing_pc (s : State) : s.executing.pc = s.pc + 2 := rfl
@[simp] theorem State.executing_mem (s : State) : s.executing.mem = s.mem := rfl
@[simp] theorem State.executing_index (s : State) : s.executing.index = s.index := rfl
@[simp] theorem State.executing_reg (s : State) (x : Nibble) : s.executing.reg x = s.reg x := rfl
@[simp] theorem State.executing_now (s : State) : s.executing.now = s.now := rfl
@[simp] theorem State.executing_halted (s : State) : s.executing.halted = s.halted := rfl

/-- In the execute phase the address of the instruction is where `pc` stood at the start of the step. -/
@[simp] theorem State.executing_instrAddr (s : State) : s.executing.instrAddr = s.pc := by
  show s.pc + 2 - 2 = s.pc
  exact BitVec.add_sub_cancel s.pc 2

/-! ## Raising and blocking leave everything else alone -/

@[simp] theorem State.raise_now (s : State) (f : Fault) (i : Word) : (s.raise f i).now = s.now := rfl
@[simp] theorem State.rewind_now (s : State) : s.rewind.now = s.now := rfl

/-- Raising from the execute phase meets 60_exceptions R246 word for word. -/
theorem State.raise_raised (s : State) (f : Fault) (i : Word) : Raised f (s.pc - 2) i s (s.raise f i) :=
  ⟨rfl, rfl, rfl, rfl, rfl, fun _ _ => rfl, rfl, fun _ => rfl, rfl, rfl, rfl, rfl, rfl, rfl, rfl, rfl, rfl, rfl⟩

end Sys2Proof.Machine
end

