-- ==== Sys2Proof/Laws/PerInstr.lean ====
section
/-!
SUPPORT. The per-instruction family FixedBits: the word of an instruction selects the row of the opcode map that has
its pattern, that is, carries the fixed bits the map gives it (30_encoding R96).
-/

namespace Sys2Proof.Laws.FixedBits

/-- The word of the instruction selects the row of its own pattern. -/
def Statement (i : Instr) : Prop := ∃ r ∈ opcodeMap, r.pattern = i.pattern ∧ r.selects (encode i) = true

/-- A row whose mask takes the family nibble only. -/
theorem of_rowF000 {i : Instr} (p : String) (v : Word) (h : ⟨p, 0xF000, v⟩ ∈ opcodeMap) (hp : p = i.pattern)
    (hs : (encode i).toNat / 4096 * 4096 = v.toNat) : Statement i :=
  ⟨_, h, hp, decide_eq_true (BitVec.eq_of_toNat_eq ((and_F000_toNat (encode i)).trans hs))⟩

/-- A row whose mask takes the family nibble and the sub-opcode `n`. -/
theorem of_rowF00F {i : Instr} (p : String) (v : Word) (h : ⟨p, 0xF00F, v⟩ ∈ opcodeMap) (hp : p = i.pattern)
    (hs : (encode i).toNat / 4096 * 4096 + (encode i).toNat % 16 = v.toNat) : Statement i :=
  ⟨_, h, hp, decide_eq_true (BitVec.eq_of_toNat_eq ((and_F00F_toNat (encode i)).trans hs))⟩

/-- A row whose mask takes the family nibble and the sub-opcode `nn`. -/
theorem of_rowF0FF {i : Instr} (p : String) (v : Word) (h : ⟨p, 0xF0FF, v⟩ ∈ opcodeMap) (hp : p = i.pattern)
    (hs : (encode i).toNat / 4096 * 4096 + (encode i).toNat % 256 = v.toNat) : Statement i :=
  ⟨_, h, hp, decide_eq_true (BitVec.eq_of_toNat_eq ((and_F0FF_toNat (encode i)).trans hs))⟩

theorem cls : Statement .cls :=
  ⟨⟨"00E0", 0xFFFF, 0x00E0⟩, by decide, rfl, by decide⟩

theorem ret : Statement .ret :=
  ⟨⟨"00EE", 0xFFFF, 0x00EE⟩, by decide, rfl, by decide⟩

theorem jp (nnn : Addr12) : Statement (.jp nnn) :=
  of_rowF000 "1nnn" 0x1000 (by decide) rfl (by rw [encode, formatNNN_toNat]; simp only [BitVec.ofNat_eq_ofNat, BitVec.toNat_ofNat]; omega)

theorem call (nnn : Addr12) : Statement (.call nnn) :=
  of_rowF000 "2nnn" 0x2000 (by decide) rfl (by rw [encode, formatNNN_toNat]; simp only [BitVec.ofNat_eq_ofNat, BitVec.toNat_ofNat]; omega)

theorem seImm (x : Nibble) (nn : Byte) : Statement (.seImm x nn) :=
  of_rowF000 "3xnn" 0x3000 (by decide) rfl (by rw [encode, formatXNN_toNat]; simp only [BitVec.ofNat_eq_ofNat, BitVec.toNat_ofNat]; omega)

theorem sneImm (x : Nibble) (nn : Byte) : Statement (.sneImm x nn) :=
  of_rowF000 "4xnn" 0x4000 (by decide) rfl (by rw [encode, formatXNN_toNat]; simp only [BitVec.ofNat_eq_ofNat, BitVec.toNat_ofNat]; omega)

theorem seReg (x : Nibble) (y : Nibble) : Statement (.seReg x y) :=
  of_rowF00F "5xy0" 0x5000 (by decide) rfl (by rw [encode, formatXYN_toNat]; simp only [BitVec.ofNat_eq_ofNat, BitVec.toNat_ofNat]; omega)

theorem ldImm (x : Nibble) (nn : Byte) : Statement (.ldImm x nn) :=
  of_rowF000 "6xnn" 0x6000 (by decide) rfl (by rw [encode, formatXNN_toNat]; simp only [BitVec.ofNat_eq_ofNat, BitVec.toNat_ofNat]; omega)

theorem addImm (x : Nibble) (nn : Byte) : Statement (.addImm x nn) :=
  of_rowF000 "7xnn" 0x7000 (by decide) rfl (by rw [encode, formatXNN_toNat]; simp only [BitVec.ofNat_eq_ofNat, BitVec.toNat_ofNat]; omega)

theorem ldReg (x : Nibble) (y : Nibble) : Statement (.ldReg x y) :=
  of_rowF00F "8xy0" 0x8000 (by decide) rfl (by rw [encode, formatXYN_toNat]; simp only [BitVec.ofNat_eq_ofNat, BitVec.toNat_ofNat]; omega)

theorem or (x : Nibble) (y : Nibble) : Statement (.or x y) :=
  of_rowF00F "8xy1" 0x8001 (by decide) rfl (by rw [encode, formatXYN_toNat]; simp only [BitVec.ofNat_eq_ofNat, BitVec.toNat_ofNat]; omega)

theorem and (x : Nibble) (y : Nibble) : Statement (.and x y) :=
  of_rowF00F "8xy2" 0x8002 (by decide) rfl (by rw [encode, formatXYN_toNat]; simp only [BitVec.ofNat_eq_ofNat, BitVec.toNat_ofNat]; omega)

theorem xor (x : Nibble) (y : Nibble) : Statement (.xor x y) :=
  of_rowF00F "8xy3" 0x8003 (by decide) rfl (by rw [encode, formatXYN_toNat]; simp only [BitVec.ofNat_eq_ofNat, BitVec.toNat_ofNat]; omega)

theorem addReg (x : Nibble) (y : Nibble) : Statement (.addReg x y) :=
  of_rowF00F "8xy4" 0x8004 (by decide) rfl (by rw [encode, formatXYN_toNat]; simp only [BitVec.ofNat_eq_ofNat, BitVec.toNat_ofNat]; omega)

theorem subReg (x : Nibble) (y : Nibble) : Statement (.subReg x y) :=
  of_rowF00F "8xy5" 0x8005 (by decide) rfl (by rw [encode, formatXYN_toNat]; simp only [BitVec.ofNat_eq_ofNat, BitVec.toNat_ofNat]; omega)

theorem shr (x : Nibble) (y : Nibble) : Statement (.shr x y) :=
  of_rowF00F "8xy6" 0x8006 (by decide) rfl (by rw [encode, formatXYN_toNat]; simp only [BitVec.ofNat_eq_ofNat, BitVec.toNat_ofNat]; omega)

theorem subn (x : Nibble) (y : Nibble) : Statement (.subn x y) :=
  of_rowF00F "8xy7" 0x8007 (by decide) rfl (by rw [encode, formatXYN_toNat]; simp only [BitVec.ofNat_eq_ofNat, BitVec.toNat_ofNat]; omega)

theorem shl (x : Nibble) (y : Nibble) : Statement (.shl x y) :=
  of_rowF00F "8xyE" 0x800E (by decide) rfl (by rw [encode, formatXYN_toNat]; simp only [BitVec.ofNat_eq_ofNat, BitVec.toNat_ofNat]; omega)

theorem sneReg (x : Nibble) (y : Nibble) : Statement (.sneReg x y) :=
  of_rowF00F "9xy0" 0x9000 (by decide) rfl (by rw [encode, formatXYN_toNat]; simp only [BitVec.ofNat_eq_ofNat, BitVec.toNat_ofNat]; omega)

theorem ldI (nnn : Addr12) : Statement (.ldI nnn) :=
  of_rowF000 "Annn" 0xA000 (by decide) rfl (by rw [encode, formatNNN_toNat]; simp only [BitVec.ofNat_eq_ofNat, BitVec.toNat_ofNat]; omega)

theorem jpV0 (nnn : Addr12) : Statement (.jpV0 nnn) :=
  of_rowF000 "Bnnn" 0xB000 (by decide) rfl (by rw [encode, formatNNN_toNat]; simp only [BitVec.ofNat_eq_ofNat, BitVec.toNat_ofNat]; omega)

theorem rnd (x : Nibble) (nn : Byte) : Statement (.rnd x nn) :=
  of_rowF000 "Cxnn" 0xC000 (by decide) rfl (by rw [encode, formatXNN_toNat]; simp only [BitVec.ofNat_eq_ofNat, BitVec.toNat_ofNat]; omega)

theorem drw (x : Nibble) (y : Nibble) (n : Nibble) : Statement (.drw x y n) :=
  of_rowF000 "Dxyn" 0xD000 (by decide) rfl (by rw [encode, formatXYN_toNat]; simp only [BitVec.ofNat_eq_ofNat, BitVec.toNat_ofNat]; omega)

theorem skp (x : Nibble) : Statement (.skp x) :=
  of_rowF0FF "Ex9E" 0xE09E (by decide) rfl (by rw [encode, formatXNN_toNat]; simp only [BitVec.ofNat_eq_ofNat, BitVec.toNat_ofNat]; omega)

theorem sknp (x : Nibble) : Statement (.sknp x) :=
  of_rowF0FF "ExA1" 0xE0A1 (by decide) rfl (by rw [encode, formatXNN_toNat]; simp only [BitVec.ofNat_eq_ofNat, BitVec.toNat_ofNat]; omega)

theorem ldVxDT (x : Nibble) : Statement (.ldVxDT x) :=
  of_rowF0FF "Fx07" 0xF007 (by decide) rfl (by rw [encode, formatXNN_toNat]; simp only [BitVec.ofNat_eq_ofNat, BitVec.toNat_ofNat]; omega)

theorem ldVxK (x : Nibble) : Statement (.ldVxK x) :=
  of_rowF0FF "Fx0A" 0xF00A (by decide) rfl (by rw [encode, formatXNN_toNat]; simp only [BitVec.ofNat_eq_ofNat, BitVec.toNat_ofNat]; omega)

theorem ldDT (x : Nibble) : Statement (.ldDT x) :=
  of_rowF0FF "Fx15" 0xF015 (by decide) rfl (by rw [encode, formatXNN_toNat]; simp only [BitVec.ofNat_eq_ofNat, BitVec.toNat_ofNat]; omega)

theorem ldST (x : Nibble) : Statement (.ldST x) :=
  of_rowF0FF "Fx18" 0xF018 (by decide) rfl (by rw [encode, formatXNN_toNat]; simp only [BitVec.ofNat_eq_ofNat, BitVec.toNat_ofNat]; omega)

theorem addI (x : Nibble) : Statement (.addI x) :=
  of_rowF0FF "Fx1E" 0xF01E (by decide) rfl (by rw [encode, formatXNN_toNat]; simp only [BitVec.ofNat_eq_ofNat, BitVec.toNat_ofNat]; omega)

theorem ldF (x : Nibble) : Statement (.ldF x) :=
  of_rowF0FF "Fx29" 0xF029 (by decide) rfl (by rw [encode, formatXNN_toNat]; simp only [BitVec.ofNat_eq_ofNat, BitVec.toNat_ofNat]; omega)

theorem ldB (x : Nibble) : Statement (.ldB x) :=
  of_rowF0FF "Fx33" 0xF033 (by decide) rfl (by rw [encode, formatXNN_toNat]; simp only [BitVec.ofNat_eq_ofNat, BitVec.toNat_ofNat]; omega)

theorem storeRegs (x : Nibble) : Statement (.storeRegs x) :=
  of_rowF0FF "Fx55" 0xF055 (by decide) rfl (by rw [encode, formatXNN_toNat]; simp only [BitVec.ofNat_eq_ofNat, BitVec.toNat_ofNat]; omega)

theorem loadRegs (x : Nibble) : Statement (.loadRegs x) :=
  of_rowF0FF "Fx65" 0xF065 (by decide) rfl (by rw [encode, formatXNN_toNat]; simp only [BitVec.ofNat_eq_ofNat, BitVec.toNat_ofNat]; omega)

end Sys2Proof.Laws.FixedBits
end

