-- ==== Sys2Proof/Tests/Slice0.lean ====
section
/-!
SUPPORT. Tests of the model, and a witness for every statement that has hypotheses. Expected results are the vectors of
95_test_vectors (named by section) and words written out bit by bit from 30_encoding R92 and R96.
-/

namespace Sys2Proof.Tests

open Sys2Proof.Machine

/-! ## Helpers -/

/-- The inputs of 95_test_vectors: no time, no key, no render, random byte 0. -/
def quiet : Inputs := ⟨0, Vector.replicate 16 false, false, 0⟩

/-- A keypad snapshot with these keys pressed. -/
def pressed (l : List (Fin 16)) : Keys := l.foldl (fun v k => v.set k.val true) (Vector.replicate 16 false)

/-- The state after reset with one instruction word at 0x200 and quiet inputs for its step. -/
def start (w : Nat) : State := (State.reset.withFetchWord 16 w).supply quiet

/-- Write one byte of memory. -/
def poke (a : Nat) (b : Byte) (s : State) : State := s.setMem (s.mem.write a b)

/-- Write one general register. -/
def put (x : Nibble) (b : Byte) (s : State) : State := s.setReg x b

/-- The render flag of the next step set. -/
def render (s : State) : State := { s with inputs := [{ quiet with renderJustHappened := true }] }

/-- The keys of the step before and of the next step. -/
def keys (before now : List (Fin 16)) (s : State) : State :=
  { s with keyPrev := pressed before, inputs := [{ quiet with keyNow := pressed now }] }

/-- The elapsed time of the next step. -/
def elapsed (us : BitVec 32) (s : State) : State := { s with inputs := [{ quiet with elapsedUs := us }] }

/-- Quirk mode. -/
def legacy (s : State) : State := { s with quirk := true }

/-- The outcome is a next state of which `p` holds. -/
def holdsNext (o : Host.Outcome State Fault Refusal) (p : State → Bool) : Bool :=
  match o with
  | .next t => p t
  | .fault _ => false
  | .refused _ => false

theorem holdsNext_exists {o : Host.Outcome State Fault Refusal} {p : State → Bool} (h : holdsNext o p = true) :
    ∃ t, o = .next t ∧ p t = true := by
  cases o with
  | next t => exact ⟨t, rfl, h⟩
  | fault f => cases h
  | refused r => cases h

/-- One step leads to a state of which `p` holds. -/
def after (s : State) (p : State → Bool) : Bool := holdsNext (step s) p

/-! ## What is well formed (30_encoding R91, 70_reset_and_hazards R282) -/

theorem test_operand_nibble_too_wide : Operand.fits ⟨16, 4⟩ = false := by decide
theorem test_operand_byte_too_wide : Operand.fits ⟨256, 8⟩ = false := by decide
theorem test_operand_address_too_wide : Operand.fits ⟨4096, 12⟩ = false := by decide
theorem test_operand_largest_fit :
    Operand.fits ⟨15, 4⟩ = true ∧ Operand.fits ⟨255, 8⟩ = true ∧ Operand.fits ⟨4095, 12⟩ = true := by decide
theorem test_program_too_long : programFits (List.replicate 3585 0) = false := by
  unfold programFits
  rw [List.length_replicate]
  decide
theorem test_program_longest : programFits (List.replicate 3584 0) = true := by
  unfold programFits
  rw [List.length_replicate]
  decide

/-! ## Decoding: one word of every instruction, written out bit by bit (30_encoding R92, R96) -/

theorem test_decode_cls : decodeWord 0b0000000011100000#16 = .ok (.cls) := by decide
theorem test_decode_ret : decodeWord 0b0000000011101110#16 = .ok (.ret) := by decide
theorem test_decode_jp : decodeWord 0b0001001000110100#16 = .ok (.jp 0x234) := by decide
theorem test_decode_call : decodeWord 0b0010001100000000#16 = .ok (.call 0x300) := by decide
theorem test_decode_seImm : decodeWord 0b0011001100101010#16 = .ok (.seImm 3 0x2A) := by decide
theorem test_decode_sneImm : decodeWord 0b0100000101000010#16 = .ok (.sneImm 1 0x42) := by decide
theorem test_decode_seReg : decodeWord 0b0101000100100000#16 = .ok (.seReg 1 2) := by decide
theorem test_decode_ldImm : decodeWord 0b0110101000101111#16 = .ok (.ldImm 0xA 0x2F) := by decide
theorem test_decode_addImm : decodeWord 0b0111000100000101#16 = .ok (.addImm 1 0x05) := by decide
theorem test_decode_ldReg : decodeWord 0b1000000100100000#16 = .ok (.ldReg 1 2) := by decide
theorem test_decode_or : decodeWord 0b1000000100100001#16 = .ok (.or 1 2) := by decide
theorem test_decode_and : decodeWord 0b1000000100100010#16 = .ok (.and 1 2) := by decide
theorem test_decode_xor : decodeWord 0b1000000100100011#16 = .ok (.xor 1 2) := by decide
theorem test_decode_addReg : decodeWord 0b1000000100100100#16 = .ok (.addReg 1 2) := by decide
theorem test_decode_subReg : decodeWord 0b1000000100100101#16 = .ok (.subReg 1 2) := by decide
theorem test_decode_shr : decodeWord 0b1000000100100110#16 = .ok (.shr 1 2) := by decide
theorem test_decode_subn : decodeWord 0b1000000100100111#16 = .ok (.subn 1 2) := by decide
theorem test_decode_shl : decodeWord 0b1000000100101110#16 = .ok (.shl 1 2) := by decide
theorem test_decode_sneReg : decodeWord 0b1001000100100000#16 = .ok (.sneReg 1 2) := by decide
theorem test_decode_ldI : decodeWord 0b1010001011110000#16 = .ok (.ldI 0x2F0) := by decide
theorem test_decode_jpV0 : decodeWord 0b1011001100000000#16 = .ok (.jpV0 0x300) := by decide
theorem test_decode_rnd : decodeWord 0b1100001100001111#16 = .ok (.rnd 3 0x0F) := by decide
theorem test_decode_drw : decodeWord 0b1101000000010101#16 = .ok (.drw 0 1 5) := by decide
theorem test_decode_skp : decodeWord 0b1110001010011110#16 = .ok (.skp 2) := by decide
theorem test_decode_sknp : decodeWord 0b1110001010100001#16 = .ok (.sknp 2) := by decide
theorem test_decode_ldVxDT : decodeWord 0b1111010100000111#16 = .ok (.ldVxDT 5) := by decide
theorem test_decode_ldVxK : decodeWord 0b1111001100001010#16 = .ok (.ldVxK 3) := by decide
theorem test_decode_ldDT : decodeWord 0b1111010100010101#16 = .ok (.ldDT 5) := by decide
theorem test_decode_ldST : decodeWord 0b1111000100011000#16 = .ok (.ldST 1) := by decide
theorem test_decode_addI : decodeWord 0b1111001000011110#16 = .ok (.addI 2) := by decide
theorem test_decode_ldF : decodeWord 0b1111010000101001#16 = .ok (.ldF 4) := by decide
theorem test_decode_ldB : decodeWord 0b1111010100110011#16 = .ok (.ldB 5) := by decide
theorem test_decode_storeRegs : decodeWord 0b1111001001010101#16 = .ok (.storeRegs 2) := by decide
theorem test_decode_loadRegs : decodeWord 0b1111000101100101#16 = .ok (.loadRegs 1) := by decide

/-- The unrecognized words of 95_test_vectors 2.1. -/
theorem test_decode_unrecognized :
    ([0x0000, 0x00E1, 0x0123, 0x5121, 0x9121, 0x8128, 0x812F, 0xE29F, 0xF2FF] : List Word).all
      (fun w => decide (decodeWord w = .refused (.unrecognized w))) = true := by decide

theorem test_decode_truncated : decodeBytes [0x00] = .refused .truncated := by decide

/-- A table word is laid out big-endian before it is decoded. -/
theorem test_table_word : decodeTableWord 16 0x6A2F = some (.ldImm 0xA 0x2F) := by decide

/-! ## One step of each instruction (95_test_vectors, parts 1 and 2) -/

/-- 2.5: clear does not wait. -/
theorem test_cls :
    after ({ start 0x00E0 with disp := (Display.blank.flip 0 0).flip 31 63 }) (fun t => !t.pixel 0 0 && !t.pixel 31 63 && t.pc == 0x202) = true := by decide

/-- 2.2. -/
theorem test_ret :
    after ({ start 0x00EE with sp := 1, stack := State.reset.stack.set 0 0x0204 }) (fun t => t.pc == 0x204 && t.sp == 0) = true := by decide

/-- S11, at 0x200. -/
theorem test_ret_empty :
    after (start 0x00EE) (fun t => t.halted && t.faultCode == 4 && t.faultAddr == 0x200 && t.faultInfo == 0x00EE && t.pc == 0x200) = true := by decide

/-- 2.1. -/
theorem test_jp_odd :
    after (start 0x1201) (fun t => t.pc == 0x201) = true := by decide

/-- 2.2. -/
theorem test_call :
    after (start 0x2300) (fun t => t.pc == 0x300 && t.sp == 1 && t.stack[0] == 0x202) = true := by decide

/-- S11. -/
theorem test_call_full :
    after ({ start 0x2300 with sp := 64 }) (fun t => t.halted && t.faultCode == 3 && t.faultInfo == 0x2300 && t.pc == 0x200 && t.sp == 64) = true := by decide

/-- 2.2. -/
theorem test_seImm_taken :
    after (put 1 0x42 (start 0x3142)) (fun t => t.pc == 0x204) = true := by decide

/-- 2.2. -/
theorem test_seImm_not_taken :
    after (put 1 0x43 (start 0x3142)) (fun t => t.pc == 0x202) = true := by decide

/-- 2.2. -/
theorem test_sneImm_not_taken :
    after (put 1 0x42 (start 0x4142)) (fun t => t.pc == 0x202) = true := by decide

/-- 2.2. -/
theorem test_sneImm_taken :
    after (put 1 0x43 (start 0x4142)) (fun t => t.pc == 0x204) = true := by decide

/-- 2.2. -/
theorem test_seReg_not_taken :
    after (put 1 7 (put 2 8 (start 0x5120))) (fun t => t.pc == 0x202) = true := by decide

/-- 2.2. -/
theorem test_seReg_same :
    after (put 1 9 (start 0x5110)) (fun t => t.pc == 0x204) = true := by decide

/-- 2.2. -/
theorem test_sneReg_taken :
    after (put 1 7 (put 2 8 (start 0x9120))) (fun t => t.pc == 0x204) = true := by decide

/-- 2.2. -/
theorem test_sneReg_same :
    after (put 1 9 (start 0x9110)) (fun t => t.pc == 0x202) = true := by decide

/-- 2.2. -/
theorem test_jpV0 :
    after (put 0 0x04 (start 0xB300)) (fun t => t.pc == 0x304) = true := by decide

/-- 2.2. -/
theorem test_jpV0_not_reduced :
    after (put 0 0xFF (start 0xBFFF)) (fun t => t.pc == 0x10FE && !t.halted) = true := by decide

/-- 2.3. -/
theorem test_ldImm :
    after (start 0x6A2F) (fun t => t.reg 0xA == 0x2F && t.pc == 0x202) = true := by decide

/-- S1. -/
theorem test_addImm_wraps :
    after (put 1 0xFF (start 0x7101)) (fun t => t.reg 1 == 0 && t.reg 0xF == 0) = true := by decide

/-- 2.3. -/
theorem test_addImm_vf :
    after (put 0xF 1 (start 0x7FFF)) (fun t => t.reg 0xF == 0) = true := by decide

/-- 2.3. -/
theorem test_ldReg :
    after (put 2 0x55 (start 0x8120)) (fun t => t.reg 1 == 0x55 && t.reg 2 == 0x55) = true := by decide

/-- S6. -/
theorem test_or_keeps_vf :
    after (put 1 0x0F (put 2 0xF0 (put 0xF 1 (start 0x8121)))) (fun t => t.reg 1 == 0xFF && t.reg 0xF == 1) = true := by decide

/-- 2.3. -/
theorem test_or_quirk_vf_source :
    after (put 1 2 (put 0xF 1 (legacy (start 0x81F1)))) (fun t => t.reg 1 == 3 && t.reg 0xF == 0) = true := by decide

/-- S6. -/
theorem test_and_keeps_vf :
    after (put 1 0x3C (put 2 0x0F (put 0xF 1 (start 0x8122)))) (fun t => t.reg 1 == 0x0C && t.reg 0xF == 1) = true := by decide

/-- S6. -/
theorem test_and_quirk :
    after (put 1 0x3C (put 2 0x0F (put 0xF 1 (legacy (start 0x8122))))) (fun t => t.reg 1 == 0x0C && t.reg 0xF == 0) = true := by decide

/-- 2.3. -/
theorem test_xor_same :
    after (put 1 0x5A (put 0xF 1 (start 0x8113))) (fun t => t.reg 1 == 0 && t.reg 0xF == 1) = true := by decide

/-- S6. -/
theorem test_xor_quirk :
    after (put 1 0xFF (put 2 0x0F (put 0xF 1 (legacy (start 0x8123))))) (fun t => t.reg 1 == 0xF0 && t.reg 0xF == 0) = true := by decide

/-- S2. -/
theorem test_addReg_carries :
    after (put 1 0xFF (put 2 1 (start 0x8124))) (fun t => t.reg 1 == 0 && t.reg 2 == 1 && t.reg 0xF == 1) = true := by decide

/-- 2.3. -/
theorem test_addReg_vf_destination :
    after (put 0xF 1 (put 2 2 (start 0x8F24))) (fun t => t.reg 0xF == 0) = true := by decide

/-- S3. -/
theorem test_subReg_borrows :
    after (put 1 5 (put 2 7 (start 0x8125))) (fun t => t.reg 1 == 0xFE && t.reg 0xF == 0) = true := by decide

/-- 2.3. -/
theorem test_subReg_equal :
    after (put 1 7 (put 2 7 (start 0x8125))) (fun t => t.reg 1 == 0 && t.reg 0xF == 1) = true := by decide

/-- S5. -/
theorem test_shr :
    after (put 1 5 (put 2 8 (start 0x8126))) (fun t => t.reg 1 == 2 && t.reg 2 == 8 && t.reg 0xF == 1) = true := by decide

/-- S5. -/
theorem test_shr_quirk :
    after (put 1 5 (put 2 8 (legacy (start 0x8126)))) (fun t => t.reg 1 == 4 && t.reg 2 == 8 && t.reg 0xF == 0) = true := by decide

/-- S3. -/
theorem test_subn :
    after (put 1 5 (put 2 7 (start 0x8127))) (fun t => t.reg 1 == 2 && t.reg 0xF == 1) = true := by decide

/-- S3. -/
theorem test_subn_borrows :
    after (put 1 7 (put 2 5 (start 0x8127))) (fun t => t.reg 1 == 0xFE && t.reg 0xF == 0) = true := by decide

/-- S5. -/
theorem test_shl :
    after (put 1 0x81 (put 2 0x40 (start 0x812E))) (fun t => t.reg 1 == 2 && t.reg 0xF == 1) = true := by decide

/-- S5. -/
theorem test_shl_quirk :
    after (put 1 0x81 (put 2 0x40 (legacy (start 0x812E)))) (fun t => t.reg 1 == 0x80 && t.reg 0xF == 0) = true := by decide

/-- 2.3. -/
theorem test_rnd :
    after ({ start 0xC30F with inputs := [{ quiet with rnd := 0xB7 }] }) (fun t => t.reg 3 == 7 && t.reg 0xF == 0) = true := by decide

/-- 2.4. -/
theorem test_ldI :
    after (start 0xAFFF) (fun t => t.index == 0xFFF) = true := by decide

/-- 2.4: VF is not cleared. -/
theorem test_addI_no_overflow :
    after (put 2 1 (put 0xF 1 { start 0xF21E with index := 0xFFE })) (fun t => t.index == 0xFFF && t.reg 0xF == 1) = true := by decide

/-- S13. -/
theorem test_addI_overflow :
    after (put 2 2 { start 0xF21E with index := 0xFFE }) (fun t => t.index == 0 && t.reg 0xF == 1) = true := by decide

/-- 2.4. -/
theorem test_ldF :
    after (put 4 0x0A (start 0xF429)) (fun t => t.index == 0x082) = true := by decide

/-- 2.4. -/
theorem test_ldF_not_masked :
    after (put 4 0xFF (start 0xF429)) (fun t => t.index == 0x54B) = true := by decide

/-- S4. -/
theorem test_ldB :
    after (put 5 254 { start 0xF533 with index := 0x300 }) (fun t => t.mem.read 0x300 == 2 && t.mem.read 0x301 == 5 && t.mem.read 0x302 == 4 && t.index == 0x300) = true := by decide

/-- 2.4. -/
theorem test_ldB_above_memory :
    after (put 5 0xFF { start 0xF533 with index := 0xFFE }) (fun t => t.halted && t.faultCode == 5 && t.faultAddr == 0x200 && t.faultInfo == 0x1000 && t.pc == 0x200 && t.mem.read 0xFFE == 0) = true := by decide

/-- S12. -/
theorem test_storeRegs_quirk :
    after (put 0 1 (put 1 2 (put 2 3 (put 3 4 (legacy { start 0xF255 with index := 0x300 }))))) (fun t => t.mem.read 0x300 == 1 && t.mem.read 0x302 == 3 && t.mem.read 0x303 == 0 && t.index == 0x303) = true := by decide

/-- 2.4. -/
theorem test_storeRegs_wraps_index :
    after (put 0 0x77 (legacy { start 0xF055 with index := 0xFFF })) (fun t => t.mem.read 0xFFF == 0x77 && t.index == 0 && t.reg 0xF == 0) = true := by decide

/-- S12. -/
theorem test_loadRegs :
    after (poke 0x300 0xAA (poke 0x301 0xBB (poke 0x302 0xCC (put 2 0x11 { start 0xF165 with index := 0x300 })))) (fun t => t.reg 0 == 0xAA && t.reg 1 == 0xBB && t.reg 2 == 0x11 && t.index == 0x300) = true := by decide

/-- 2.4. -/
theorem test_loadRegs_above_memory :
    after (put 0 9 (put 1 9 { start 0xF165 with index := 0xFFF })) (fun t => t.halted && t.faultInfo == 0x1000 && t.reg 0 == 9 && t.reg 1 == 9) = true := by decide

/-- 2.5. -/
theorem test_drw_collides :
    after (poke 0x300 0x81 (put 0 4 (put 1 2 (render { start 0xD011 with index := 0x300, disp := Display.blank.flip 2 4 })))) (fun t => !t.pixel 2 4 && t.pixel 2 11 && t.reg 0xF == 1 && t.pc == 0x202) = true := by decide

/-- S8: origin wrapped to (31, 63), the rest clipped. -/
theorem test_drw_clips :
    after (poke 0x300 0xC0 (poke 0x301 0xC0 (put 0 0xFF (put 1 0xFF (render { start 0xD012 with index := 0x300 }))))) (fun t => t.pixel 31 63 && !t.pixel 31 0 && !t.pixel 0 63 && !t.pixel 0 0 && t.reg 0xF == 0) = true := by decide

/-- 2.6. -/
theorem test_skp :
    after (put 2 5 (keys [] [5] (start 0xE29E))) (fun t => t.pc == 0x204) = true := by decide

/-- 2.6. -/
theorem test_skp_not_masked :
    after (put 2 0x10 (keys [] [0] (start 0xE29E))) (fun t => t.halted && t.faultCode == 6 && t.faultInfo == 0x10 && t.pc == 0x200) = true := by decide

/-- 2.6. -/
theorem test_sknp :
    after (put 2 5 (keys [] [] (start 0xE2A1))) (fun t => t.pc == 0x204) = true := by decide

/-- 2.6. -/
theorem test_sknp_pressed :
    after (put 2 5 (keys [] [5] (start 0xE2A1))) (fun t => t.pc == 0x202) = true := by decide

/-- S9. -/
theorem test_ldVxK_release :
    after (keys [7] [] (start 0xF30A)) (fun t => t.pc == 0x202 && t.reg 3 == 7 && t.keyPrev == pressed []) = true := by decide

/-- S9. -/
theorem test_ldVxK_held :
    after (put 3 0x55 (keys [7] [7] (start 0xF30A))) (fun t => t.pc == 0x200 && t.reg 3 == 0x55 && t.keyPrev == pressed [7]) = true := by decide

/-- 2.7. -/
theorem test_ldVxDT_after_tick :
    after (elapsed 16667 { start 0xF507 with dt := 0x3C }) (fun t => t.reg 5 == 0x3B && t.dt == 0x3B) = true := by decide

/-- 2.7. -/
theorem test_ldDT_not_decremented :
    after (put 5 0x3C (elapsed 16667 (start 0xF515))) (fun t => t.dt == 0x3C && t.acc == 0) = true := by decide

/-- 2.7. -/
theorem test_ldST :
    after (put 1 2 (start 0xF118)) (fun t => t.st == 2 && t.outputs.soundTimer == 2) = true := by decide

/-! ## The step cycle (95_test_vectors 2.1, 2.7) -/

theorem test_fetch_last_word :
    after (poke 0xFFE 0x30 (poke 0xFFF 0x00 { start 0x0000 with pc := 0xFFE })) (fun t => t.pc == 0x1002 && !t.halted) = true := by decide

theorem test_fetch_fff :
    after ({ start 0x0000 with pc := 0xFFF }) (fun t => t.halted && t.faultCode == 2 && t.faultAddr == 0xFFF && t.faultInfo == 0 && t.pc == 0xFFF) = true := by decide

theorem test_fault_after_timer_phase :
    after ({ start 0x0000 with dt := 5, inputs := [{ quiet with elapsedUs := 16667, keyNow := pressed [3] }] }) (fun t => t.dt == 4 && t.halted && t.faultCode == 1 && t.faultAddr == 0x200 && t.pc == 0x200 && t.keyPrev == pressed []) = true := by decide

theorem test_timers_three_periods :
    after (elapsed 50001 { start 0x1200 with dt := 5, st := 1 }) (fun t => t.dt == 2 && t.st == 0 && t.acc == 0) = true := by decide

theorem test_timers_largest :
    after (elapsed 4294967295 { start 0x1200 with dt := 0xFF, st := 0xFF }) (fun t => t.dt == 0 && t.st == 0 && t.acc == 14731) = true := by decide

/-- Creation puts the program at 0x200, first byte first (70_reset_and_hazards R281). -/
theorem test_create :
    holdsNext (create [0x6A, 0x2F] true) (fun s => s.mem.read 0x200 == 0x6A && s.mem.read 0x201 == 0x2F && s.quirk) = true := by
  decide

/-- From reset with nothing placed the first step raises UnrecognizedInstruction, whatever its inputs are (R282). -/
theorem test_reset_runs_nothing : after State.reset (fun t => t.halted && t.faultCode == 1 && t.faultInfo == 0) = true := by decide

/-! ## Witnesses: the hypotheses of the statements can be met -/

theorem witness_DecodeInvertsEncode : (Instr.drw 0xF 0xF 0xF).wellFormed = true := by decide

theorem witness_EncodeInvertsDecode : decodeWord 0xDFFF = .ok (.drw 0xF 0xF 0xF) := by decide

theorem witness_DecodingFollowsOpcodeMap :
    (∃ r ∈ opcodeMap, r.selects 0x5120 = true) ∧ (∃ i, decodeWord 0x5120 = .ok i) ∧
    ∀ r ∈ opcodeMap, r.selects 0x5121 = false :=
  ⟨⟨⟨"5xy0", 0xF00F, 0x5000⟩, by decide, by decide⟩, ⟨.seReg 1 2, by decide⟩, by decide⟩

theorem witness_FetchReadsBigEndianWord :
    ({ State.reset with pc := 0xFFE } : State).pc.toNat ≤ 0xFFE ∧ 0xFFE < ({ State.reset with pc := 0xFFF } : State).pc.toNat := by
  decide

theorem witness_StepRunsDecodedInstruction :
    let s := start 0x6A2F
    s.halted = false ∧ s.pc.toNat ≤ 0xFFE ∧ (Instr.ldImm 0xA 0x2F).wellFormed = true ∧
    decodeBytes [s.mem.read s.pc.toNat, s.mem.read (s.pc.toNat + 1)] = .ok (.ldImm 0xA 0x2F, []) := by decide

theorem witness_FetchOutsideMemoryRaises :
    let s : State := { State.reset with pc := 0xFFF }
    s.halted = false ∧ 0xFFE < s.pc.toNat := by decide

theorem witness_UnrecognizedWordRaises :
    State.reset.halted = false ∧ fetch State.reset = some 0x0000 ∧ ∀ r ∈ opcodeMap, r.selects 0x0000 = false := by decide

theorem witness_HaltedStepChangesNothing : ({ State.reset with halted := true } : State).halted = true := rfl

theorem witness_FatalStepIsPrecise :
    State.reset.halted = false ∧ ∃ t, step State.reset = .next t ∧ t.halted = true :=
  ⟨rfl, holdsNext_exists (p := fun t => t.halted) (by decide)⟩

/-- One state for each event that halts. -/
theorem witness_OnlyTheseEventsHalt :
    after { start 0 with pc := 0xFFF } (fun t => t.halted) = true ∧ after (start 0x5121) (fun t => t.halted) = true ∧
    after { start 0x2300 with sp := 64 } (fun t => t.halted) = true ∧ after (start 0x00EE) (fun t => t.halted) = true ∧
    after { start 0xF533 with index := 0xFFE } (fun t => t.halted) = true ∧
    after { start 0xF155 with index := 0xFFF } (fun t => t.halted) = true ∧
    after (render { start 0xD012 with index := 0xFFF }) (fun t => t.halted) = true ∧
    after (put 2 16 (start 0xE29E)) (fun t => t.halted) = true := by decide

theorem witness_LatchEndsEveryNonFatalStep :
    (∃ t, step (keys [] [1] (start 0x1200)) = .next t ∧ (!t.halted) = true) ∧
    ∃ t, step (keys [] [1] (start 0x0000)) = .next t ∧ t.halted = true :=
  ⟨holdsNext_exists (p := fun t => !t.halted) (by decide), holdsNext_exists (p := fun t => t.halted) (by decide)⟩

theorem witness_PcAfterEveryStep :
    (∃ t, step (start 0xE29E) = .next t ∧ (!t.halted) = true) ∧ ∃ t, step (put 2 16 (start 0xE29E)) = .next t ∧ t.halted = true :=
  ⟨holdsNext_exists (p := fun t => !t.halted) (by decide), holdsNext_exists (p := fun t => t.halted) (by decide)⟩

theorem witness_BlockedStepRetries :
    ((start 0xD011).halted = false ∧ (start 0xD011).pc.toNat ≤ 0xFFE ∧
      decodeWord (readWord (start 0xD011).mem (start 0xD011).pc.toNat) = .ok (.drw 0 1 1) ∧
      (start 0xD011).now.renderJustHappened = false) ∧
    let s := keys [7] [7] (start 0xF30A)
    s.halted = false ∧ s.pc.toNat ≤ 0xFFE ∧ decodeWord (readWord s.mem s.pc.toNat) = .ok (.ldVxK 3) ∧
      ¬ ∃ k, ReleaseEdge s k := by
  unfold ReleaseEdge
  decide

theorem witness_TimerPhaseIsTheLoop : (State.reset.acc.toNat + (50001 : BitVec 32).toNat) / 16667 ≤ 3 := by decide

theorem witness_TimersRunInEveryStep :
    let s := start 0x1200
    s.halted = false ∧ (∃ t, step s = .next t ∧ (!t.halted) = true) ∧
    (∀ x, decodeWord (readWord s.mem s.pc.toNat) ≠ .ok (.ldDT x)) ∧ ∀ x, decodeWord (readWord s.mem s.pc.toNat) ≠ .ok (.ldST x) := by
  refine ⟨rfl, holdsNext_exists (p := fun t => !t.halted) (by decide), ?_⟩
  have h : decodeWord (readWord (start 0x1200).mem (start 0x1200).pc.toNat) = .ok (.jp 0x200) := by decide
  constructor <;> intro x hx <;> cases h.symm.trans hx

theorem witness_TimersRunInEveryStep_loads :
    (∃ t, step (start 0xF315) = .next t ∧
      decide (decodeWord (readWord (start 0xF315).mem (start 0xF315).pc.toNat) = .ok (.ldDT 3)) = true) ∧
    (∃ t, step (start 0xF318) = .next t ∧
      decide (decodeWord (readWord (start 0xF318).mem (start 0xF318).pc.toNat) = .ok (.ldST 3)) = true) ∧
    ∃ t, step (start 0xF307) = .next t ∧
      decide (decodeWord (readWord (start 0xF307).mem (start 0xF307).pc.toNat) = .ok (.ldVxDT 3)) = true :=
  ⟨⟨_, rfl, by decide⟩, ⟨_, rfl, by decide⟩, ⟨_, rfl, by decide⟩⟩

theorem witness_ElapsedTimeAddsUp : (4294967294 : BitVec 32).toNat + (1 : BitVec 32).toNat < 2 ^ 32 := by decide

theorem witness_HaltedStateIsAFault :
    (State.reset.Inv ∧ State.reset.halted = false) ∧
    let s := State.reset.raise .unrecognizedInstruction 0
    s.Inv ∧ s.halted = true :=
  ⟨⟨⟨rfl, by decide, by decide, by decide, by decide, by decide, by decide⟩, rfl⟩,
    ⟨⟨rfl, by decide, by decide, by decide, by decide, by decide, by decide⟩, rfl⟩⟩

theorem witness_StepKeepsInvariant : State.reset.Inv ∧ ∃ t, step State.reset = .next t ∧ t.halted = true :=
  ⟨⟨rfl, by decide, by decide, by decide, by decide, by decide, by decide⟩,
    holdsNext_exists (p := fun t => t.halted) (by decide)⟩

theorem witness_CreationMeetsInvariant : ∃ s, create [0x12, 0x00] true = .next s := ⟨_, rfl⟩

theorem witness_CreationStartsFromZero : ∃ s, create [] false = .next s := ⟨_, rfl⟩

theorem witness_FirstKeyWaitBlocks :
    ∃ s, create [0xF3, 0x0A] false = .next s ∧ decide (decodeWord (readWord s.mem 0x200) = .ok (.ldVxK 3)) = true :=
  holdsNext_exists (p := fun s => decide (decodeWord (readWord s.mem 0x200) = .ok (.ldVxK 3))) (by decide)

theorem witness_CreationLoadsProgram : (List.replicate 3584 (0xFF : Byte)).length ≤ 3584 :=
  Nat.le_of_eq List.length_replicate

/-- 10_state R22, R23: glyph 15 is the last five bytes, and a glyph is four pixels wide. -/
theorem test_defaultFont :
    Config.defaultFont.toList.drop 75 = [0xF0, 0x80, 0xF0, 0x80, 0x80] ∧
      (Config.defaultFont.toList.all fun b => b &&& 0x0F == 0) = true := by decide

theorem witness_CreationRefusesLongProgram : 3584 < (List.replicate 3585 (0xFF : Byte)).length := by
  rw [List.length_replicate]
  decide

theorem witness_MemoryIsItsReads :
    Memory.wf [(0x300, 0x01), (0xFFF, 0x01)] = true ∧ Memory.wf ((Memory.write [(0xFFF, 0x01)] 0x300 0x01)) = true ∧
    ∀ a, Memory.read [(0x300, 0x01), (0xFFF, 0x01)] a = (Memory.write [(0xFFF, 0x01)] 0x300 0x01).read a :=
  ⟨by decide, by decide, fun _ => rfl⟩

theorem witness_OnlyStoresChangeMemory :
    (∃ t, exec (.ldB 0) State.reset = .next t) ∧ (∃ t, exec (.storeRegs 15) State.reset = .next t) ∧
    ∃ t, exec (.loadRegs 15) State.reset = .next t := ⟨⟨_, rfl⟩, ⟨_, rfl⟩, ⟨_, rfl⟩⟩

theorem witness_EachPieceHasItsWriters :
    (∃ t, exec (.ldImm 0 0) State.reset = .next t) ∧ (Instr.ldImm 0 0 ≠ .cls ∧ ∀ x y n, Instr.ldImm 0 0 ≠ .drw x y n) ∧
    (Instr.ldImm 0 0 ≠ .ret ∧ ∀ nnn, Instr.ldImm 0 0 ≠ .call nnn) ∧
    ((∀ nnn, Instr.ldImm 0 0 ≠ .ldI nnn) ∧
      ∀ x, Instr.ldImm 0 0 ≠ .addI x ∧ Instr.ldImm 0 0 ≠ .ldF x ∧ Instr.ldImm 0 0 ≠ .storeRegs x ∧ Instr.ldImm 0 0 ≠ .loadRegs x) ∧
    (∀ x, Instr.ldImm 0 0 ≠ .ldDT x) ∧ ∀ x, Instr.ldImm 0 0 ≠ .ldST x := by
  simp [exec, execLdImm]

theorem witness_VFHasItsWriters :
    ((0xE : Nibble) ≠ 0xF ∧ State.reset.quirk = false) ∧
    (({ State.reset with index := 0xFFF } : State).index.toNat + (State.reset.reg 0).toNat < 4096) ∧
    (start 0xD011).now.renderJustHappened = false ∧ ∃ t, exec (.drw 0 1 1) (start 0xD011) = .next t :=
  ⟨by decide, by decide, by decide, ⟨_, rfl⟩⟩

theorem witness_QuirkChangesOnlySeven :
    (∀ x y, Instr.cls ≠ .or x y ∧ Instr.cls ≠ .and x y ∧ Instr.cls ≠ .xor x y ∧ Instr.cls ≠ .shr x y ∧ Instr.cls ≠ .shl x y) ∧
    (∀ x, Instr.cls ≠ .storeRegs x ∧ Instr.cls ≠ .loadRegs x) ∧ ∃ t, exec .cls State.reset = .next t := by
  simp [exec, execCls]

theorem witness_SoundTimerAndAccumulatorAreNeverRead : ∃ t, exec (.ldST 0) State.reset = .next t := ⟨_, rfl⟩

theorem witness_ShiftsIgnoreVyWithoutQuirk :
    State.reset.quirk = false ∧ (legacy State.reset).quirk = true ∧ (1 : Nibble) ≠ 0xF ∧
    ((put 2 2 (legacy State.reset)).reg 2).toNat / 2 ≠ ((put 2 2 (legacy State.reset)).reg 3).toNat / 2 ∧
    ((put 2 1 (legacy State.reset)).reg 2).toNat % 128 ≠ ((put 2 1 (legacy State.reset)).reg 3).toNat % 128 := by decide

theorem witness_CallPushesReturnAddress :
    ({ State.reset with sp := 63 } : State).sp.val < 64 ∧ ({ State.reset with sp := 64 } : State).sp.val = 64 := by decide

theorem witness_ReturnPopsNewestEntry :
    (({ State.reset with sp := 64 } : State).sp.val - 1 < 64 ∧ 0 < ({ State.reset with sp := 64 } : State).sp.val) ∧
    (0 < ({ State.reset with sp := 1 } : State).sp.val) ∧ State.reset.sp.val = 0 := by decide

theorem witness_ReturnUndoesCall :
    ∃ t u, State.reset.sp.val < 64 ∧ exec (.call 0x300) State.reset = .next t ∧ exec .ret t.advance = .next u :=
  ⟨_, _, by decide, rfl, rfl⟩

theorem witness_LogicIsBitwiseThenQuirkClearsVF :
    (Instr.or 0xF 1 = .or 0xF 1 ∧ Bool.or = Bool.or ∧ 1 = 1) ∧ (legacy State.reset).quirk = true ∧ State.reset.quirk = false ∧
    (0xE : Nibble) ≠ 0xF := ⟨⟨rfl, rfl, rfl⟩, rfl, rfl, by decide⟩

theorem witness_AddWrapsAndCarries :
    (1 : Nibble) ≠ 0xF ∧ (put 1 255 (put 2 1 State.reset)).reg 1 = 255 ∧ (put 1 255 (put 2 1 State.reset)).reg 2 = 1 := by decide

theorem witness_SubtractsWrapAndBorrow :
    (1 : Nibble) ≠ 0xF ∧ ((put 2 1 State.reset).reg 1).toNat < ((put 2 1 State.reset).reg 2).toNat := by decide

theorem witness_ShiftsMoveOneBit :
    (State.reset.reg 1 = if State.reset.quirk = true then State.reset.reg 2 else State.reset.reg 1) ∧
    ((put 2 9 (legacy State.reset)).reg 2 =
      if (legacy State.reset).quirk = true then (put 2 9 (legacy State.reset)).reg 2 else (put 2 9 (legacy State.reset)).reg 1) := by
  decide

theorem witness_AddIndexWrapsAtTwelveBits :
    let s : State := { State.reset with index := 0xFFE }
    (put 2 1 s).index.toNat + ((put 2 1 s).reg 2).toNat < 4096 ∧ 4096 ≤ (put 2 2 s).index.toNat + ((put 2 2 s).reg 2).toNat := by
  decide

theorem witness_BcdWritesThreeDigits : ({ State.reset with index := 0xFFD } : State).index.toNat + 2 ≤ 0xFFF := by decide

theorem witness_StoreRegistersWritesInOrder :
    ({ State.reset with index := 0xFF0 } : State).index.toNat + (0xF : Nibble).toNat ≤ 0xFFF ∧ (0xF : Nibble).toNat ≤ (0xF : Nibble).toNat := by
  decide

theorem witness_LoadRegistersReadsInOrder :
    ({ State.reset with index := 0xFF1 } : State).index.toNat + (0xE : Nibble).toNat ≤ 0xFFF ∧
    (0xE : Nibble).toNat ≤ (0xE : Nibble).toNat ∧ (0xE : Nibble).toNat < (0xF : Nibble).toNat := by decide

theorem witness_LoadInvertsStore :
    ∃ t u, State.reset.index.toNat + (0xF : Nibble).toNat ≤ 0xFFF ∧ exec (.storeRegs 0xF) State.reset = .next t ∧
      exec (.loadRegs 0xF) { t with v := Vector.replicate 16 1, index := State.reset.index } = .next u :=
  ⟨_, _, by decide, rfl, rfl⟩

theorem witness_StoredWordIsFetched :
    ∃ t, State.reset.index.toNat + (1 : Nibble).toNat ≤ 0xFFF ∧ (0 : Nibble).toNat ≤ (1 : Nibble).toNat ∧
      (1 : Nibble).toNat = (0 : Nibble).toNat + 1 ∧ exec (.storeRegs 1) State.reset = .next t := ⟨_, by decide, by decide, by decide, rfl⟩

theorem witness_DataAccessAboveMemoryRaises :
    (0x1000 = ({ State.reset with index := 0xFFE } : State).index.toNat + 2) ∧
    (0x1000 = ({ State.reset with index := 0xFFF } : State).index.toNat + (1 : Nibble).toNat) ∧
    let s := render { State.reset with index := 0xFFF }
    s.now.renderJustHappened = true ∧ 1 ≤ (2 : Nibble).toNat ∧
      0x1000 = s.index.toNat + min (2 : Nibble).toNat (32 - (if (1 : Nibble) = 0xF then 0 else (s.reg 1).toNat) % 32) - 1 := by decide

/-- A draw of no rows with the index register at the top, and the highest draw in memory, with and without a collision. -/
theorem witness_DrawIsXorWithClipping :
    (render { State.reset with index := 0xFFF }).now.renderJustHappened = true ∧ (0 : Nibble).toNat = 0 ∧
    (let s := render { State.reset with index := 0xFFB }
     s.index.toNat + min (5 : Nibble).toNat (32 - (s.reg 1).toNat % 32) - 1 ≤ 0xFFF ∧
     ¬ ∃ r c, r < 32 ∧ c < 64 ∧ s.pixel r c = true ∧ SpriteBit s 0 0 5 r c) ∧
    let s := poke 0x300 0x80 (render { State.reset with index := 0x300, disp := Display.blank.flip 0 0 })
    s.pixel 0 0 = true ∧ SpriteBit s 0 0 1 0 0 := by
  refine ⟨by decide, by decide, ⟨by decide, ?_⟩, by decide, by unfold SpriteBit; decide⟩
  rintro ⟨r, c, _, _, h, _⟩
  exact absurd ((Display.get_blank r c).symm.trans h) (by decide)

theorem witness_DrawTwiceRestoresDisplay :
    ∃ t u, exec (.drw 0 1 5) State.reset = .next t ∧ exec (.drw 0 1 5) t = .next u := ⟨_, _, rfl, rfl⟩

theorem witness_KeySkipsTestCurrentSnapshot :
    ((put 2 15 State.reset).reg 2).toNat < 16 ∧ 15 < ((put 2 16 State.reset).reg 2).toNat := by decide

theorem witness_KeyWaitTakesAReleaseEdge :
    (∃ k, ReleaseEdge (keys [15] [] State.reset) k) ∧ ¬ ∃ k, ReleaseEdge (keys [15] [15] State.reset) k := by
  unfold ReleaseEdge
  decide

end Sys2Proof.Tests
end

section
/-!
PROOFS. The family 20_memory: what the fetch reads.
-/

namespace Sys2Proof.Machine

theorem readWord_toNat (m : Memory) (a : Nat) :
    (readWord m a).toNat = (m.read a).toNat * 256 + (m.read (a + 1)).toNat :=
  wordOfBytes_toNat (m.read a) (m.read (a + 1))

/-- Settles O5: the two cases of the fetch, and the value of the word it reads. -/
theorem fetchReadsBigEndianWord : Obligations.FetchReadsBigEndianWord := by
  intro s
  constructor
  · intro hpc
    exact ⟨readWord s.mem s.pc.toNat, fetch_eq_some hpc, readWord_toNat s.mem s.pc.toNat⟩
  · intro hpc
    exact fetch_eq_none hpc

end Sys2Proof.Machine
end

section
/-!
PROOFS. The family 30_encoding: the decoder follows the opcode map, and the field `y` of the two shifts.
-/

namespace Sys2Proof

/-! ## Rows of the opcode map, field by field (R96) -/

/-- Two rows that no digit tells apart are the same row. -/
theorem opcodeMap_disjoint : ∀ r₁ ∈ opcodeMap, ∀ r₂ ∈ opcodeMap,
    r₁.value &&& r₂.mask = r₂.value &&& r₁.mask → r₁ = r₂ := by decide

theorem OpcodeRow.selects_iff {r : OpcodeRow} {w : Word} : r.selects w = true ↔ w &&& r.mask = r.value := decide_eq_true_iff

/-- Selected rows agree on the digits that both of them fix, so at most one row is selected. -/
theorem selects_unique {r₁ r₂ : OpcodeRow} {w : Word} (m₁ : r₁ ∈ opcodeMap) (m₂ : r₂ ∈ opcodeMap)
    (h₁ : r₁.selects w = true) (h₂ : r₂.selects w = true) : r₁ = r₂ := by
  refine opcodeMap_disjoint r₁ m₁ r₂ m₂ ?_
  rw [← OpcodeRow.selects_iff.mp h₁, ← OpcodeRow.selects_iff.mp h₂, BitVec.and_assoc, BitVec.and_assoc,
    BitVec.and_comm r₁.mask]

theorem opField_and_mask {r : OpcodeRow} {w : Word} (h : r.selects w = true) :
    opField w &&& opField r.mask = opField r.value := by
  rw [← OpcodeRow.selects_iff.mp h]; exact BitVec.extractLsb'_and.symm

theorem nField_and_mask {r : OpcodeRow} {w : Word} (h : r.selects w = true) :
    nField w &&& nField r.mask = nField r.value := by
  rw [← OpcodeRow.selects_iff.mp h]; exact BitVec.extractLsb'_and.symm

theorem nnField_and_mask {r : OpcodeRow} {w : Word} (h : r.selects w = true) :
    nnField w &&& nnField r.mask = nnField r.value := by
  rw [← OpcodeRow.selects_iff.mp h]; exact BitVec.extractLsb'_and.symm

/-- Every row fixes the opcode family. -/
theorem opField_of_selects {r : OpcodeRow} {w : Word} (hr : r ∈ opcodeMap) (h : r.selects w = true) :
    opField r.value = opField w := by
  have mask : ∀ r ∈ opcodeMap, opField r.mask = BitVec.allOnes 4 := by decide
  rw [← opField_and_mask h, mask r hr, BitVec.and_allOnes]

/-- A row that fixes the digit `n` is selected only by words with that digit. -/
theorem nField_of_selects {r : OpcodeRow} {w : Word} (mask : nField r.mask = BitVec.allOnes 4) (h : r.selects w = true) :
    nField w = nField r.value := by
  rw [← nField_and_mask h, mask, BitVec.and_allOnes]

/-- A row that fixes the byte `nn` is selected only by words with that byte. -/
theorem nnField_of_selects {r : OpcodeRow} {w : Word} (mask : nnField r.mask = BitVec.allOnes 8) (h : r.selects w = true) :
    nnField w = nnField r.value := by
  rw [← nnField_and_mask h, mask, BitVec.and_allOnes]

/-! ## What the rows of a family with sub-opcodes fix (R95) -/

theorem selects_family0 {r : OpcodeRow} {w : Word} (hr : r ∈ opcodeMap) (h : r.selects w = true) (op : opField w = 0) :
    w = 0x00E0 ∨ w = 0x00EE := by
  have rows : ∀ r ∈ opcodeMap, opField r.value = 0 → r.mask = BitVec.allOnes 16 ∧ (r.value = 0x00E0 ∨ r.value = 0x00EE) := by
    decide
  obtain ⟨mask, value⟩ := rows r hr ((opField_of_selects hr h).trans op)
  have hw : w = r.value := by rw [← OpcodeRow.selects_iff.mp h, mask, BitVec.and_allOnes]
  rwa [hw]

theorem selects_family5_9 {r : OpcodeRow} {w : Word} (hr : r ∈ opcodeMap) (h : r.selects w = true)
    (op : opField w = 5 ∨ opField w = 9) : nField w = 0 := by
  have rows : ∀ r ∈ opcodeMap, opField r.value = 5 ∨ opField r.value = 9 →
      nField r.mask = BitVec.allOnes 4 ∧ nField r.value = 0 := by decide
  obtain ⟨mask, value⟩ := rows r hr (by rwa [opField_of_selects hr h])
  exact (nField_of_selects mask h).trans value

theorem selects_family8 {r : OpcodeRow} {w : Word} (hr : r ∈ opcodeMap) (h : r.selects w = true) (op : opField w = 8) :
    (nField w).toNat ≤ 7 ∨ nField w = 0xE := by
  have rows : ∀ r ∈ opcodeMap, opField r.value = 8 →
      nField r.mask = BitVec.allOnes 4 ∧ ((nField r.value).toNat ≤ 7 ∨ nField r.value = 0xE) := by decide
  obtain ⟨mask, value⟩ := rows r hr ((opField_of_selects hr h).trans op)
  rwa [nField_of_selects mask h]

theorem selects_familyE {r : OpcodeRow} {w : Word} (hr : r ∈ opcodeMap) (h : r.selects w = true) (op : opField w = 14) :
    nnField w ∈ [0x9E, 0xA1] := by
  have rows : ∀ r ∈ opcodeMap, opField r.value = 14 →
      nnField r.mask = BitVec.allOnes 8 ∧ nnField r.value ∈ [0x9E, 0xA1] := by decide
  obtain ⟨mask, value⟩ := rows r hr ((opField_of_selects hr h).trans op)
  rwa [nnField_of_selects mask h]

theorem selects_familyF {r : OpcodeRow} {w : Word} (hr : r ∈ opcodeMap) (h : r.selects w = true) (op : opField w = 15) :
    nnField w ∈ [0x07, 0x0A, 0x15, 0x18, 0x1E, 0x29, 0x33, 0x55, 0x65] := by
  have rows : ∀ r ∈ opcodeMap, opField r.value = 15 → nnField r.mask = BitVec.allOnes 8 ∧
      nnField r.value ∈ [0x07, 0x0A, 0x15, 0x18, 0x1E, 0x29, 0x33, 0x55, 0x65] := by decide
  obtain ⟨mask, value⟩ := rows r hr ((opField_of_selects hr h).trans op)
  rwa [nnField_of_selects mask h]

/-! ## Decoding answers an instruction with this word, or refuses a word outside the map -/

/-- What decoding does with one word: it finds the instruction that the word encodes, or it refuses the word by name and
no row of the opcode map is selected (R94, R97). -/
def DecodesOrUnmapped (w : Word) : Prop :=
  (∃ i, decodeWord w = .ok i ∧ encode i = w) ∨
  (decodeWord w = .refused (.unrecognized w) ∧ ∀ r ∈ opcodeMap, r.selects w ≠ true)

theorem DecodesOrUnmapped.of_ok {w : Word} {i : Instr} (h : decodeWord w = .ok i) (e : encode i = w) : DecodesOrUnmapped w :=
  .inl ⟨i, h, e⟩

theorem DecodesOrUnmapped.of_refused {w : Word} (h : decodeWord w = .refused (.unrecognized w))
    (no : ∀ r ∈ opcodeMap, r.selects w ≠ true) : DecodesOrUnmapped w :=
  .inr ⟨h, no⟩

theorem formatNNN_of_opField {w : Word} {op : Nibble} (h : opField w = op) : formatNNN op (nnnField w) = w :=
  h ▸ formatNNN_fields w

theorem formatXNN_of_fields {w : Word} {op : Nibble} {nn : Byte} (h : opField w = op) (low : nnField w = nn) :
    formatXNN op (xField w) nn = w :=
  h ▸ low ▸ formatXNN_fields w

theorem formatXYN_of_fields {w : Word} {op n : Nibble} (h : opField w = op) (low : nField w = n) :
    formatXYN op (xField w) (yField w) n = w :=
  h ▸ low ▸ formatXYN_fields w

theorem decodesOrUnmapped_family0 {w : Word} (h : opField w = 0) : DecodesOrUnmapped w := by
  obtain ⟨rfl, -⟩ | ⟨rfl, -⟩ | ⟨n1, n2, d⟩ := decodeFamily0_cases w
  · exact .of_ok (i := .cls) (by decide) rfl
  · exact .of_ok (i := .ret) (by decide) rfl
  · exact .of_refused ((decodeWord_family0 h).trans d) fun _ hr s => (selects_family0 hr s h).elim n1 n2

/-- Families 5 and 9, which take only `n = 0`. -/
theorem decodesOrUnmapped_ifZero {w : Word} {i : Instr} (op : opField w = 5 ∨ opField w = 9)
    (d : decodeWord w = decodeIfZero (nField w) i w) (e : nField w = 0 → encode i = w) : DecodesOrUnmapped w := by
  obtain ⟨n, c⟩ | ⟨n, c⟩ := decodeIfZero_cases (nField w) i w
  · exact .of_ok (d.trans c) (e n)
  · exact .of_refused (d.trans c) fun _ hr s => n (selects_family5_9 hr s op)

theorem decodesOrUnmapped_family8 {w : Word} (h : opField w = 8) : DecodesOrUnmapped w := by
  have d := decodeWord_family8 h
  obtain ⟨n, c⟩ | ⟨n, c⟩ | ⟨n, c⟩ | ⟨n, c⟩ | ⟨n, c⟩ | ⟨n, c⟩ | ⟨n, c⟩ | ⟨n, c⟩ | ⟨n, c⟩ | ⟨⟨gt, ne⟩, c⟩ :=
    decodeFamily8_cases (xField w) (yField w) (nField w) w
  case inr.inr.inr.inr.inr.inr.inr.inr.inr =>
    exact .of_refused (d.trans c) fun _ hr s => (selects_family8 hr s h).elim (Nat.not_le_of_lt gt) ne
  all_goals exact .of_ok (d.trans c) (formatXYN_of_fields h n)

theorem decodesOrUnmapped_familyE {w : Word} (h : opField w = 14) : DecodesOrUnmapped w := by
  have d := decodeWord_familyE h
  obtain ⟨n, c⟩ | ⟨n, c⟩ | ⟨no, c⟩ := decodeFamilyE_cases (xField w) (nnField w) w
  · exact .of_ok (d.trans c) (formatXNN_of_fields h n)
  · exact .of_ok (d.trans c) (formatXNN_of_fields h n)
  · exact .of_refused (d.trans c) fun _ hr s => absurd (selects_familyE hr s h) (by simpa using no)

theorem decodesOrUnmapped_familyF {w : Word} (h : opField w = 15) : DecodesOrUnmapped w := by
  have d := decodeWord_familyF h
  obtain ⟨n, c⟩ | ⟨n, c⟩ | ⟨n, c⟩ | ⟨n, c⟩ | ⟨n, c⟩ | ⟨n, c⟩ | ⟨n, c⟩ | ⟨n, c⟩ | ⟨n, c⟩ | ⟨no, c⟩ :=
    decodeFamilyF_cases (xField w) (nnField w) w
  case inr.inr.inr.inr.inr.inr.inr.inr.inr =>
    exact .of_refused (d.trans c) fun _ hr s => absurd (selects_familyF hr s h) (by simpa using no)
  all_goals exact .of_ok (d.trans c) (formatXNN_of_fields h n)

theorem nibble_cases : ∀ n : Nibble, n = 0 ∨ n = 1 ∨ n = 2 ∨ n = 3 ∨ n = 4 ∨ n = 5 ∨ n = 6 ∨ n = 7 ∨ n = 8 ∨ n = 9 ∨
    n = 10 ∨ n = 11 ∨ n = 12 ∨ n = 13 ∨ n = 14 ∨ n = 15 := by decide

theorem decodesOrUnmapped (w : Word) : DecodesOrUnmapped w := by
  obtain h | h | h | h | h | h | h | h | h | h | h | h | h | h | h | h := nibble_cases (opField w)
  · exact decodesOrUnmapped_family0 h
  · exact .of_ok (decodeWord_family1 h) (formatNNN_of_opField h)
  · exact .of_ok (decodeWord_family2 h) (formatNNN_of_opField h)
  · exact .of_ok (decodeWord_family3 h) (formatXNN_of_fields h rfl)
  · exact .of_ok (decodeWord_family4 h) (formatXNN_of_fields h rfl)
  · exact decodesOrUnmapped_ifZero (.inl h) (decodeWord_family5 h) (formatXYN_of_fields h)
  · exact .of_ok (decodeWord_family6 h) (formatXNN_of_fields h rfl)
  · exact .of_ok (decodeWord_family7 h) (formatXNN_of_fields h rfl)
  · exact decodesOrUnmapped_family8 h
  · exact decodesOrUnmapped_ifZero (.inr h) (decodeWord_family9 h) (formatXYN_of_fields h)
  · exact .of_ok (decodeWord_familyA h) (formatNNN_of_opField h)
  · exact .of_ok (decodeWord_familyB h) (formatNNN_of_opField h)
  · exact .of_ok (decodeWord_familyC h) (formatXNN_of_fields h rfl)
  · exact .of_ok (decodeWord_familyD h) (formatXYN_of_fields h rfl)
  · exact decodesOrUnmapped_familyE h
  · exact decodesOrUnmapped_familyF h

theorem encode_of_decodeWord {w : Word} {i : Instr} (h : decodeWord w = .ok i) : encode i = w := by
  obtain ⟨j, d, e⟩ | ⟨d, -⟩ := decodesOrUnmapped w
  · cases d.symm.trans h; exact e
  · cases d.symm.trans h

theorem decodeWord_of_selects {w : Word} {r : OpcodeRow} (hr : r ∈ opcodeMap) (h : r.selects w = true) :
    ∃ i, decodeWord w = .ok i := by
  obtain ⟨i, d, -⟩ | ⟨-, no⟩ := decodesOrUnmapped w
  · exact ⟨i, d⟩
  · exact absurd h (no r hr)

open Laws in
/-- The word of every instruction carries the fixed bits of its row: the per-instruction lemmas, together. -/
theorem fixedBits : (i : Instr) → FixedBits.Statement i
  | .cls => FixedBits.cls
  | .ret => FixedBits.ret
  | .jp nnn => FixedBits.jp nnn
  | .call nnn => FixedBits.call nnn
  | .seImm x nn => FixedBits.seImm x nn
  | .sneImm x nn => FixedBits.sneImm x nn
  | .seReg x y => FixedBits.seReg x y
  | .ldImm x nn => FixedBits.ldImm x nn
  | .addImm x nn => FixedBits.addImm x nn
  | .ldReg x y => FixedBits.ldReg x y
  | .or x y => FixedBits.or x y
  | .and x y => FixedBits.and x y
  | .xor x y => FixedBits.xor x y
  | .addReg x y => FixedBits.addReg x y
  | .subReg x y => FixedBits.subReg x y
  | .shr x y => FixedBits.shr x y
  | .subn x y => FixedBits.subn x y
  | .shl x y => FixedBits.shl x y
  | .sneReg x y => FixedBits.sneReg x y
  | .ldI nnn => FixedBits.ldI nnn
  | .jpV0 nnn => FixedBits.jpV0 nnn
  | .rnd x nn => FixedBits.rnd x nn
  | .drw x y n => FixedBits.drw x y n
  | .skp x => FixedBits.skp x
  | .sknp x => FixedBits.sknp x
  | .ldVxDT x => FixedBits.ldVxDT x
  | .ldVxK x => FixedBits.ldVxK x
  | .ldDT x => FixedBits.ldDT x
  | .ldST x => FixedBits.ldST x
  | .addI x => FixedBits.addI x
  | .ldF x => FixedBits.ldF x
  | .ldB x => FixedBits.ldB x
  | .storeRegs x => FixedBits.storeRegs x
  | .loadRegs x => FixedBits.loadRegs x

theorem row_of_decodeWord {w : Word} {i : Instr} (h : decodeWord w = .ok i) :
    ∃ r ∈ opcodeMap, r.pattern = i.pattern ∧ r.selects w = true :=
  encode_of_decodeWord h ▸ fixedBits i

/-- Settles O4: a decoded word selects the row of its instruction, a word in a row decodes, and the rows are disjoint. -/
theorem decodingFollowsOpcodeMap : Obligations.DecodingFollowsOpcodeMap := by
  intro w
  refine ⟨fun r hr h => ?_, fun i h => row_of_decodeWord h, fun r₁ m₁ r₂ m₂ => selects_unique m₁ m₂, fun no => ?_⟩
  · obtain ⟨i, d⟩ := decodeWord_of_selects hr h
    obtain ⟨r', hr', pattern, h'⟩ := row_of_decodeWord d
    exact ⟨i, d, selects_unique hr' hr h' h ▸ pattern.symm⟩
  · cases d : decodeWord w with
    | ok i =>
      obtain ⟨r, hr, -, h⟩ := row_of_decodeWord d
      cases (no r hr).symm.trans h
    | refused e => rw [decodeWord_refused d]

/-! ## The word of an instruction decodes to it -/

/-- In each format the decoder reads back the fields that the encoder wrote. -/
theorem decodeWord_encode (i : Instr) : decodeWord (encode i) = .ok i := by
  cases i with
  | cls | ret => decide
  | _ => simp [encode, decodeWord, decodeIfZero, decodeFamily8, decodeFamilyE, decodeFamilyF]

end Sys2Proof

namespace Sys2Proof.Machine

theorem encodes_of_toNat {i : Instr} {w : Nat} (h : (encode i).toNat = w) : Encodes i w := by
  subst h
  refine ⟨(encode i).isLt, ?_⟩
  rw [BitVec.ofNat_toNat, BitVec.setWidth_eq, decodeWord_encode]

/-- The word of format XY, in the order in which the statements add up its digits. -/
theorem formatXYN_toNat_add (op x y n : Nibble) :
    (formatXYN op x y n).toNat = op.toNat * 4096 + n.toNat + 0x100 * x.toNat + 0x10 * y.toNat := by
  rw [formatXYN_toNat]; omega

/-! ## The shifts and their field `y` (R99) -/

theorem shiftSource_plain {s : State} (q : s.quirk = false) (x y : Nibble) : s.shiftSource x y = s.reg x := by
  simp [State.shiftSource, q]

theorem shiftSource_quirk {s : State} (q : s.quirk = true) (x y : Nibble) : s.shiftSource x y = s.reg y := by
  simp [State.shiftSource, q]

theorem exec_shr (x y : Nibble) (s : State) : exec (.shr x y) s =
    .next (s.setRegFlag x (shrResult (s.shiftSource x y)) (shrOut (s.shiftSource x y))) := rfl

theorem exec_shl (x y : Nibble) (s : State) : exec (.shl x y) s =
    .next (s.setRegFlag x (shlResult (s.shiftSource x y)) (shlOut (s.shiftSource x y))) := rfl

theorem shrResult_toNat (a : Byte) : (shrResult a).toNat = a.toNat / 2 := by
  rw [shrResult, BitVec.toNat_ofNat]; omega

theorem shlResult_toNat (a : Byte) : (shlResult a).toNat = a.toNat * 2 % 256 := BitVec.toNat_ofNat ..

/-- Outcomes that agree wrote the same byte to Vx, unless the flag replaced it. -/
theorem setRegFlag_result_inj {s : State} {x : Nibble} (hx : x ≠ 0xF) {a b : Byte} {c d : Bool}
    (h : (.next (s.setRegFlag x a c) : Host.Outcome State Fault Refusal) = .next (s.setRegFlag x b d)) : a = b := by
  have regs : (s.setRegFlag x a c).reg x = (s.setRegFlag x b d).reg x := by rw [Host.Outcome.next.inj h]
  simpa only [State.setRegFlag_reg, if_neg hx, if_true] using regs

/-- Settles O33: without the quirk flag the source is Vx; with it the source is Vy, and Vx receives it shifted. -/
theorem shiftsIgnoreVyWithoutQuirk : Obligations.ShiftsIgnoreVyWithoutQuirk := by
  refine ⟨fun x y => ?_, fun x y y' s q => ?_, fun x y y' s q hx ne same => ?_, fun x y y' s q hx ne same => ?_⟩
  · exact ⟨encodes_of_toNat (formatXYN_toNat_add 8 x y 6), encodes_of_toNat (formatXYN_toNat_add 8 x y 0xE)⟩
  · simp only [exec_shr, exec_shl, shiftSource_plain q, and_self]
  · rw [exec_shr, exec_shr, shiftSource_quirk q, shiftSource_quirk q] at same
    have result := congrArg BitVec.toNat (setRegFlag_result_inj hx same)
    rw [shrResult_toNat, shrResult_toNat] at result
    exact ne result
  · rw [exec_shl, exec_shl, shiftSource_quirk q, shiftSource_quirk q] at same
    have result := congrArg BitVec.toNat (setRegFlag_result_inj hx same)
    rw [shlResult_toNat, shlResult_toNat] at result
    omega

end Sys2Proof.Machine
end

section
/-!
PROOFS. The family 41_flow: the jump 1nnn and the four skips.
-/

namespace Sys2Proof.Machine

/-! ## The jump 1nnn (R132) -/

theorem exec_jp (nnn : Addr12) (s : State) : exec (.jp nnn) s = .next (s.jump (addrOperand nnn)) := rfl

theorem addrOperand_toNat (nnn : Addr12) : (addrOperand nnn).toNat = nnn.toNat :=
  BitVec.toNat_setWidth_of_le (by decide)

/-- Settles O34: the word is that of format NNN, and the meaning is one write of `pc`. -/
theorem jumpSetsPc : Obligations.JumpSetsPc := by
  intro nnn s
  exact ⟨encodes_of_toNat (formatNNN_toNat 1 nnn), _, exec_jp nnn s, addrOperand_toNat nnn, onlyPc_jump s _⟩

/-! ## The skips (R134 to R137) -/

/-- The word of format XNN, in the order in which the statements add up its digits. -/
theorem formatXNN_toNat_add (op x : Nibble) (nn : Byte) :
    (formatXNN op x nn).toNat = op.toNat * 4096 + 0x100 * x.toNat + nn.toNat := by
  rw [formatXNN_toNat, Nat.mul_comm x.toNat]

theorem exec_seImm (x : Nibble) (nn : Byte) (s : State) : exec (.seImm x nn) s = .next (s.skipIf (s.reg x == nn)) := rfl

theorem exec_sneImm (x : Nibble) (nn : Byte) (s : State) : exec (.sneImm x nn) s = .next (s.skipIf (s.reg x != nn)) := rfl

theorem exec_seReg (x y : Nibble) (s : State) : exec (.seReg x y) s = .next (s.skipIf (s.reg x == s.reg y)) := rfl

theorem exec_sneReg (x y : Nibble) (s : State) : exec (.sneReg x y) s = .next (s.skipIf (s.reg x != s.reg y)) := rfl

theorem skipIf_beq_pc (s : State) (a b : Byte) : (s.skipIf (a == b)).pc = if a = b then s.pc + 2 else s.pc := by
  simp only [State.skipIf_pc, beq_iff_eq]

theorem skipIf_bne_pc (s : State) (a b : Byte) : (s.skipIf (a != b)).pc = if a = b then s.pc else s.pc + 2 := by
  simp only [State.skipIf_pc, bne_iff_ne, ite_not]

/-- A skip is a jump, taken or not: to the next instruction but one, or to `pc` itself. -/
theorem onlyPc_skipIf (s : State) : ∀ c : Bool, OnlyPc s (s.skipIf c)
  | true => onlyPc_jump s (s.pc + 2)
  | false => onlyPc_jump s s.pc

/-- Settles O39: the four words by their formats; each meaning is a conditional skip, on equality or on its negation. -/
theorem skipsCompareForEquality : Obligations.SkipsCompareForEquality := by
  intro x y nn s
  refine ⟨?seImmWord, ?sneImmWord, ?seRegWord, ?sneRegWord, ?seImm, ?sneImm, ?seReg, ?sneReg⟩
  case seImmWord => exact encodes_of_toNat (formatXNN_toNat_add 3 x nn)
  case sneImmWord => exact encodes_of_toNat (formatXNN_toNat_add 4 x nn)
  case seRegWord => exact encodes_of_toNat (formatXYN_toNat_add 5 x y 0)
  case sneRegWord => exact encodes_of_toNat (formatXYN_toNat_add 9 x y 0)
  case seImm => exact ⟨_, exec_seImm x nn s, skipIf_beq_pc s _ _, onlyPc_skipIf s _⟩
  case sneImm => exact ⟨_, exec_sneImm x nn s, skipIf_bne_pc s _ _, onlyPc_skipIf s _⟩
  case seReg => exact ⟨_, exec_seReg x y s, skipIf_beq_pc s _ _, onlyPc_skipIf s _⟩
  case sneReg => exact ⟨_, exec_sneReg x y s, skipIf_bne_pc s _ _, onlyPc_skipIf s _⟩

end Sys2Proof.Machine
end

section
/-!
PROOFS. The family 42_alu: the loads 6xnn and 8xy0, the immediate addition 7xnn and the random byte Cxnn.
-/

namespace Sys2Proof.Machine

theorem exec_ldImm (x : Nibble) (nn : Byte) (s : State) : exec (.ldImm x nn) s = .next (s.setReg x nn) := rfl

theorem exec_ldReg (x y : Nibble) (s : State) : exec (.ldReg x y) s = .next (s.setReg x (s.reg y)) := rfl

theorem exec_addImm (x : Nibble) (nn : Byte) (s : State) :
    exec (.addImm x nn) s = .next (s.setReg x (addResult (s.reg x) nn)) := rfl

theorem exec_rnd (x : Nibble) (nn : Byte) (s : State) : exec (.rnd x nn) s = .next (s.setReg x (s.now.rnd &&& nn)) := rfl

theorem addResult_toNat (a b : Byte) : (addResult a b).toNat = (a.toNat + b.toNat) % 256 := BitVec.toNat_ofNat ..

theorem onlyRegs_setReg_self (s : State) (x : Nibble) (b : Byte) : OnlyRegs [x] s (s.setReg x b) :=
  onlyRegs_setReg s b (List.mem_singleton_self x)

/-- Settles O40: the three words by their formats; each meaning is one write of Vx, whose frame leaves VF alone unless x = F. -/
theorem loadsAndImmediateAdd : Obligations.LoadsAndImmediateAdd := by
  intro x y nn s
  refine ⟨?ldImmWord, ?addImmWord, ?ldRegWord, ?ldImm, ?ldReg, ?addImm⟩
  case ldImmWord => exact encodes_of_toNat (formatXNN_toNat_add 6 x nn)
  case addImmWord => exact encodes_of_toNat (formatXNN_toNat_add 7 x nn)
  case ldRegWord => exact encodes_of_toNat (formatXYN_toNat_add 8 x y 0)
  case ldImm => exact ⟨_, exec_ldImm x nn s, s.setReg_reg_same x _, onlyRegs_setReg_self s x _⟩
  case ldReg => exact ⟨_, exec_ldReg x y s, s.setReg_reg_same x _, onlyRegs_setReg_self s x _⟩
  case addImm =>
    refine ⟨_, exec_addImm x nn s, ?_, onlyRegs_setReg_self s x _⟩
    rw [State.setReg_reg_same, addResult_toNat]

/-- Settles O45: whatever the step's random byte is, Vx receives it masked, bit by bit, in one write. -/
theorem randomByteIsMasked : Obligations.RandomByteIsMasked := by
  intro x nn s
  refine ⟨encodes_of_toNat (formatXNN_toNat_add 0xC x nn), _, exec_rnd x nn s, fun b _ => ?_, onlyRegs_setReg_self s x _⟩
  rw [State.setReg_reg_same, BitVec.getLsbD_and]

end Sys2Proof.Machine
end

section
/-!
PROOFS. The family 43_index_memory: the index load Annn.
-/

namespace Sys2Proof.Machine

/-! ## The index load Annn (R181) -/

theorem exec_ldI (nnn : Addr12) (s : State) : exec (.ldI nnn) s = .next (s.setIndex (addrOperand nnn)) := rfl

theorem onlyIndexAndRegs_setIndex (s : State) (a : Word) : OnlyIndexAndRegs [] s (s.setIndex a) := by
  refine ⟨?regs, s.setIndex_pc a, ?memory, ?special, ?record⟩
  case regs => exact fun r _ => s.setIndex_reg a r
  case memory => intro b; rw [State.setIndex_mem]
  case special => simp [SameSpecial]
  case record => simp [SameRecord]

/-- Settles O46: the word is that of format NNN, and the meaning is one write of I with the zero-extended operand. -/
theorem loadIndexSetsI : Obligations.LoadIndexSetsI := by
  intro nnn s
  exact ⟨encodes_of_toNat (formatNNN_toNat 0xA nnn), _, exec_ldI nnn s, addrOperand_toNat nnn, onlyIndexAndRegs_setIndex s _⟩

end Sys2Proof.Machine
end

section
/-!
PROOFS. The family 44_display: the clear 00E0.
-/

namespace Sys2Proof.Machine

/-! ## The clear 00E0 (R200) -/

theorem exec_cls (s : State) : exec .cls s = .next (s.setDisp Display.blank) := rfl

theorem setDisp_blank_pixel (s : State) (r c : Nat) : (s.setDisp Display.blank).pixel r c = false :=
  Display.get_blank r c

theorem sameMemory_setDisp (s : State) (d : Display) : SameMemory s (s.setDisp d) := by
  intro a; rw [State.setDisp_mem]

/-- Settles O55: the word is the fixed word of its row, and the meaning is one write of the display that asks for no input and no flag. -/
theorem clearMakesEveryPixelFalse : Obligations.ClearMakesEveryPixelFalse := by
  intro s
  refine ⟨?word, _, exec_cls s, ?pixels, ?memory, ?frame⟩
  case word => exact encodes_of_toNat (i := .cls) rfl
  case pixels => exact setDisp_blank_pixel s
  case memory => exact sameMemory_setDisp s Display.blank
  case frame => rfl

end Sys2Proof.Machine
end

section
/-!
PROOFS. The family other, encoding: the example words, and the two round trips of decoder and encoder.
-/

namespace Sys2Proof

/-- Settles O1: the decoder evaluates on each of the twenty words. -/
theorem exampleWordsDecode : Obligations.ExampleWordsDecode := by
  unfold Obligations.ExampleWordsDecode; decide

theorem decodeBytes_encodeBytes (i : Instr) (rest : List Byte) : decodeBytes (encodeBytes i ++ rest) = .ok (i, rest) := by
  simp [encodeBytes, decodeBytes, decodeWord_encode]

/-- Settles O2: the fields read back are the fields written, and the two bytes of a word make it up again. -/
theorem decodeInvertsEncode : Obligations.DecodeInvertsEncode :=
  fun i rest _ => ⟨decodeWord_encode i, decodeBytes_encodeBytes i rest⟩

/-- Settles O3: family by family, the decoder checks the fixed digits and keeps all the others as operands. -/
theorem encodeInvertsDecode : Obligations.EncodeInvertsDecode :=
  fun _ _ h => encode_of_decodeWord h

end Sys2Proof
end

section
/-!
PROOFS. The family other, the execute phase said once: `Effect` lists what each instruction does to the state, with the
condition under which it does it, and `exec_iff_effect` ties the list to `exec`. Frames, invariants and noninterference are
proved by cases on it.
-/

namespace Sys2Proof.Machine

/-! ## Updates as plain writes -/

/-- `pc` after a skip that is taken or not. -/
def State.skipTarget (s : State) (c : Bool) : Word := if c then s.pc + 2 else s.pc

theorem State.skipIf_eq_jump (s : State) : ∀ c : Bool, s.skipIf c = s.jump (s.skipTarget c)
  | true => rfl
  | false => rfl

/-- I after Fx55 or Fx65 has used `k` addresses (43_index_memory R185, R186). -/
def State.nextIndex (s : State) (k : Nat) : Word := if s.quirk then indexOfNat (s.index.toNat + k) else s.index

theorem State.bumpIndex_eq_setIndex (s : State) (k : Nat) : s.bumpIndex k = s.setIndex (s.nextIndex k) := by
  unfold State.bumpIndex State.nextIndex; split <;> rfl

/-! ## The effects -/

/-- The fatal conditions of the execute phase: instruction, cause and info (60_exceptions R243 to R245, R249). -/
inductive Fatal (s : State) : Instr → Fault → Word → Prop
  | call {nnn} (full : s.sp.val = 64) : Fatal s (.call nnn) .stackOverflow (encode (.call nnn))
  | ret (empty : s.sp.val = 0) : Fatal s .ret .stackUnderflow (encode .ret)
  | ldB {x} (above : 0xFFF < s.index.toNat + 2) :
      Fatal s (.ldB x) .dataAddressOutOfBounds (BitVec.ofNat 16 (s.index.toNat + 2))
  | storeRegs {x} (above : 0xFFF < s.index.toNat + x.toNat) :
      Fatal s (.storeRegs x) .dataAddressOutOfBounds (BitVec.ofNat 16 (s.index.toNat + x.toNat))
  | loadRegs {x} (above : 0xFFF < s.index.toNat + x.toNat) :
      Fatal s (.loadRegs x) .dataAddressOutOfBounds (BitVec.ofNat 16 (s.index.toNat + x.toNat))
  | drw {x y n} (render : s.now.renderJustHappened = true) (rows : 0 < s.spriteRows y n)
      (above : 0xFFF < s.index.toNat + (s.spriteRows y n - 1)) :
      Fatal s (.drw x y n) .dataAddressOutOfBounds (BitVec.ofNat 16 (s.index.toNat + (s.spriteRows y n - 1)))
  | skp {x} (above : 16 ≤ (s.reg x).toNat) : Fatal s (.skp x) .keyIndexOutOfRange ((s.reg x).setWidth 16)
  | sknp {x} (above : 16 ≤ (s.reg x).toNat) : Fatal s (.sknp x) .keyIndexOutOfRange ((s.reg x).setWidth 16)

/-- What an instruction does in the execute phase: one case per instruction, more where it branches. -/
inductive Effect (s : State) : Instr → State → Prop
  | cls : Effect s .cls (s.setDisp Display.blank)
  | ret (h : s.sp.val - 1 < 64) (h' : s.sp.val - 1 < 65) (used : 0 < s.sp.val) :
      Effect s .ret (State.jump { s with sp := ⟨s.sp.val - 1, h'⟩ } s.stack[s.sp.val - 1])
  | jp {nnn} : Effect s (.jp nnn) (s.jump (addrOperand nnn))
  | call {nnn} (h : s.sp.val < 64) : Effect s (.call nnn) (State.jump { s with
      stack := s.stack.set s.sp.val s.pc h, sp := ⟨s.sp.val + 1, Nat.succ_lt_succ h⟩ } (addrOperand nnn))
  | seImm {x nn} : Effect s (.seImm x nn) (s.jump (s.skipTarget (s.reg x == nn)))
  | sneImm {x nn} : Effect s (.sneImm x nn) (s.jump (s.skipTarget (s.reg x != nn)))
  | seReg {x y} : Effect s (.seReg x y) (s.jump (s.skipTarget (s.reg x == s.reg y)))
  | ldImm {x nn} : Effect s (.ldImm x nn) (s.setReg x nn)
  | addImm {x nn} : Effect s (.addImm x nn) (s.setReg x (addResult (s.reg x) nn))
  | ldReg {x y} : Effect s (.ldReg x y) (s.setReg x (s.reg y))
  | or {x y} : Effect s (.or x y) (s.setRegLogic x (s.reg x ||| s.reg y))
  | and {x y} : Effect s (.and x y) (s.setRegLogic x (s.reg x &&& s.reg y))
  | xor {x y} : Effect s (.xor x y) (s.setRegLogic x (s.reg x ^^^ s.reg y))
  | addReg {x y} : Effect s (.addReg x y)
      (s.setRegFlag x (addResult (s.reg x) (s.reg y)) (addCarry (s.reg x) (s.reg y)))
  | subReg {x y} : Effect s (.subReg x y)
      (s.setRegFlag x (subResult (s.reg x) (s.reg y)) (subNoBorrow (s.reg x) (s.reg y)))
  | shr {x y} : Effect s (.shr x y)
      (s.setRegFlag x (shrResult (s.shiftSource x y)) (shrOut (s.shiftSource x y)))
  | subn {x y} : Effect s (.subn x y)
      (s.setRegFlag x (subResult (s.reg y) (s.reg x)) (subNoBorrow (s.reg y) (s.reg x)))
  | shl {x y} : Effect s (.shl x y)
      (s.setRegFlag x (shlResult (s.shiftSource x y)) (shlOut (s.shiftSource x y)))
  | sneReg {x y} : Effect s (.sneReg x y) (s.jump (s.skipTarget (s.reg x != s.reg y)))
  | ldI {nnn} : Effect s (.ldI nnn) (s.setIndex (addrOperand nnn))
  | jpV0 {nnn} : Effect s (.jpV0 nnn) (s.jump (jumpSum nnn (s.reg 0)))
  | rnd {x nn} : Effect s (.rnd x nn) (s.setReg x (s.now.rnd &&& nn))
  | drwBlocked {x y n} (wait : s.now.renderJustHappened = false) : Effect s (.drw x y n) s.rewind
  | drw {x y n} (render : s.now.renderJustHappened = true)
      (inMemory : s.spriteRows y n = 0 ∨ s.index.toNat + (s.spriteRows y n - 1) ≤ 0xFFF) :
      Effect s (.drw x y n) (s.show (s.sprite x y n))
  | skp {x} (h : (s.reg x).toNat < 16) : Effect s (.skp x) (s.jump (s.skipTarget (s.keyDown ⟨(s.reg x).toNat, h⟩)))
  | sknp {x} (h : (s.reg x).toNat < 16) : Effect s (.sknp x) (s.jump (s.skipTarget (!s.keyDown ⟨(s.reg x).toNat, h⟩)))
  | ldVxDT {x} : Effect s (.ldVxDT x) (s.setReg x s.dt)
  | ldVxKBlocked {x} (wait : keyPick s.released = none) : Effect s (.ldVxK x) s.rewind
  | ldVxK {x k} (pick : keyPick s.released = some k) : Effect s (.ldVxK x) (s.setReg x (BitVec.ofNat 8 k.val))
  | ldDT {x} : Effect s (.ldDT x) (s.setDT (s.reg x))
  | ldST {x} : Effect s (.ldST x) (s.setST (s.reg x))
  | addI {x} (below : s.index.toNat + (s.reg x).toNat < 4096) :
      Effect s (.addI x) (s.setIndex (BitVec.ofNat 16 (s.index.toNat + (s.reg x).toNat)))
  | addIWraps {x} (wraps : 4096 ≤ s.index.toNat + (s.reg x).toNat) :
      Effect s (.addI x) ((s.setIndex (indexOfNat (s.index.toNat + (s.reg x).toNat))).setVF 1)
  | ldF {x} : Effect s (.ldF x) (s.setIndex (glyphAddr (s.reg x)))
  | ldB {x} (inMemory : s.index.toNat + 2 ≤ 0xFFF) :
      Effect s (.ldB x) (s.setMem (s.mem.writeBytes s.index.toNat (bcdDigits (s.reg x))))
  | storeRegs {x} (inMemory : s.index.toNat + x.toNat ≤ 0xFFF) : Effect s (.storeRegs x)
      ((s.setMem (s.mem.writeBytes s.index.toNat (s.regsUpTo x))).setIndex (s.nextIndex (x.toNat + 1)))
  | loadRegs {x} (inMemory : s.index.toNat + x.toNat ≤ 0xFFF) : Effect s (.loadRegs x)
      ((s.setRegs (loadFrom s.mem s.index.toNat (x.toNat + 1) s.v)).setIndex (s.nextIndex (x.toNat + 1)))
  | fatal {i f info} (h : Fatal s i f info) : Effect s i (s.raise f info)

/-! ## The effects are what `exec` does -/

/-- An access checked to lie in memory. -/
theorem State.withDataBound_le {s : State} {highest : Nat} (h : highest ≤ 0xFFF) (k : State) : s.withDataBound highest k = k :=
  if_neg (Nat.not_lt.2 h)

theorem State.withDataBound_gt {s : State} {highest : Nat} (h : 0xFFF < highest) (k : State) :
    s.withDataBound highest k = s.raise .dataAddressOutOfBounds (BitVec.ofNat 16 highest) := if_pos h

theorem State.withKeyIndex_lt {s : State} {b : Byte} (h : b.toNat < 16) (k : Fin 16 → State) :
    s.withKeyIndex b k = k ⟨b.toNat, h⟩ := dif_pos h

theorem State.withKeyIndex_ge {s : State} {b : Byte} (h : 16 ≤ b.toNat) (k : Fin 16 → State) :
    s.withKeyIndex b k = s.raise .keyIndexOutOfRange (b.setWidth 16) := dif_neg (Nat.not_lt.2 h)

theorem exec_drw (x y n : Nibble) (s : State) :
    exec (.drw x y n) s = .next (if s.now.renderJustHappened then s.draw x y n else s.rewind) := rfl

theorem exec_drw_render {s : State} (h : s.now.renderJustHappened = true) (x y n : Nibble) :
    exec (.drw x y n) s = .next (s.draw x y n) := congrArg _ (if_pos h)

theorem exec_drw_blocked {s : State} (h : s.now.renderJustHappened = false) (x y n : Nibble) :
    exec (.drw x y n) s = .next s.rewind := by
  rw [exec_drw, h]; rfl

/-- A sprite of no rows leaves the canvas. -/
theorem State.sprite_noRows {s : State} {y n : Nibble} (h : s.spriteRows y n = 0) (x : Nibble) :
    s.sprite x y n = ⟨s.disp, false⟩ := by
  rw [State.sprite, h, drawRows_zero]

/-- A draw whose rows lie in memory shows the sprite, also when it has no rows. -/
theorem State.draw_inMemory {s : State} {y n : Nibble}
    (h : s.spriteRows y n = 0 ∨ s.index.toNat + (s.spriteRows y n - 1) ≤ 0xFFF) (x : Nibble) :
    s.draw x y n = s.show (s.sprite x y n) := by
  obtain ⟨noRows, e⟩ | ⟨-, -, e⟩ | ⟨rows, above, -⟩ := s.draw_cases x y n
  · rw [e, State.sprite_noRows noRows]
  · exact e
  · omega

theorem State.draw_above {s : State} {y n : Nibble} (rows : 0 < s.spriteRows y n)
    (h : 0xFFF < s.index.toNat + (s.spriteRows y n - 1)) (x : Nibble) : s.draw x y n =
      s.raise .dataAddressOutOfBounds (BitVec.ofNat 16 (s.index.toNat + (s.spriteRows y n - 1))) := by
  obtain ⟨noRows, -⟩ | ⟨-, inMemory, -⟩ | ⟨-, -, e⟩ := s.draw_cases x y n
  · omega
  · omega
  · exact e

theorem Fatal.exec {s : State} {i : Instr} {f : Fault} {info : Word} (h : Fatal s i f info) :
    exec i s = .next (s.raise f info) := by
  cases h with
  | call full => exact congrArg _ (dif_neg (by omega))
  | ret empty => exact congrArg _ (dif_neg (by omega))
  | ldB above => exact congrArg _ (State.withDataBound_gt above _)
  | storeRegs above => exact congrArg _ (State.withDataBound_gt above _)
  | loadRegs above => exact congrArg _ (State.withDataBound_gt above _)
  | drw render rows above => rw [exec_drw_render render, State.draw_above rows above]
  | skp above => exact congrArg _ (State.withKeyIndex_ge above _)
  | sknp above => exact congrArg _ (State.withKeyIndex_ge above _)

theorem exec_ldVxK (x : Nibble) (s : State) : exec (.ldVxK x) s = .next (s.awaitKey x) := rfl

theorem State.awaitKey_none {s : State} (h : keyPick s.released = none) (x : Nibble) : s.awaitKey x = s.rewind := by
  rw [State.awaitKey, h]

theorem State.awaitKey_some {s : State} {k : Fin 16} (h : keyPick s.released = some k) (x : Nibble) :
    s.awaitKey x = s.setReg x (BitVec.ofNat 8 k.val) := by
  rw [State.awaitKey, h]

theorem State.addIndex_lt {s : State} {b : Byte} (h : s.index.toNat + b.toNat < 4096) :
    s.addIndex b = s.setIndex (BitVec.ofNat 16 (s.index.toNat + b.toNat)) :=
  (s.addIndex_cases b).elim And.right fun wraps => absurd h (Nat.not_lt.2 wraps.1)

theorem State.addIndex_ge {s : State} {b : Byte} (h : 4096 ≤ s.index.toNat + b.toNat) :
    s.addIndex b = (s.setIndex (indexOfNat (s.index.toNat + b.toNat))).setVF 1 :=
  (s.addIndex_cases b).elim (fun below => absurd below.1 (Nat.not_lt.2 h)) And.right

theorem Effect.exec {s t : State} {i : Instr} (h : Effect s i t) : exec i s = .next t := by
  cases h with
  | ret _ _ used => exact congrArg _ (dif_pos used)
  | call h => exact congrArg _ (dif_pos h)
  | seImm | sneImm | seReg | sneReg => exact congrArg _ (s.skipIf_eq_jump _)
  | skp h | sknp h => exact congrArg _ ((State.withKeyIndex_lt h _).trans (s.skipIf_eq_jump _))
  | drwBlocked wait => exact exec_drw_blocked wait ..
  | drw render inMemory => rw [exec_drw_render render, State.draw_inMemory inMemory]
  | ldVxKBlocked wait => rw [exec_ldVxK, State.awaitKey_none wait]
  | ldVxK pick => rw [exec_ldVxK, State.awaitKey_some pick]
  | addI below => exact congrArg _ (State.addIndex_lt below)
  | addIWraps wraps => exact congrArg _ (State.addIndex_ge wraps)
  | ldB inMemory => exact congrArg _ (State.withDataBound_le inMemory _)
  | storeRegs inMemory | loadRegs inMemory =>
    exact congrArg _ ((State.withDataBound_le inMemory _).trans (State.bumpIndex_eq_setIndex _ _))
  | fatal h => exact h.exec
  | _ => rfl

/-- The conditions of the effects leave out no state. -/
theorem exists_effect (i : Instr) (s : State) : ∃ t, Effect s i t := by
  cases i with
  | ret =>
    have := s.sp.isLt
    by_cases h : s.sp.val = 0
    · exact ⟨_, .fatal (.ret h)⟩
    · exact ⟨_, .ret (by omega) (by omega) (by omega)⟩
  | call nnn =>
    have := s.sp.isLt
    by_cases h : s.sp.val = 64
    · exact ⟨_, .fatal (.call h)⟩
    · exact ⟨_, .call (by omega)⟩
  | drw x y n =>
    by_cases render : s.now.renderJustHappened = true
    · by_cases h : s.spriteRows y n = 0 ∨ s.index.toNat + (s.spriteRows y n - 1) ≤ 0xFFF
      · exact ⟨_, .drw render h⟩
      · exact ⟨_, .fatal (.drw render (by omega) (by omega))⟩
    · exact ⟨_, .drwBlocked (eq_false_of_ne_true render)⟩
  | skp x => exact (Nat.lt_or_ge _ _).elim (fun h => ⟨_, .skp h⟩) fun h => ⟨_, .fatal (.skp h)⟩
  | sknp x => exact (Nat.lt_or_ge _ _).elim (fun h => ⟨_, .sknp h⟩) fun h => ⟨_, .fatal (.sknp h)⟩
  | ldVxK x =>
    cases h : keyPick s.released with
    | none => exact ⟨_, .ldVxKBlocked h⟩
    | some k => exact ⟨_, .ldVxK h⟩
  | addI x => exact (Nat.lt_or_ge _ _).elim (fun h => ⟨_, .addI h⟩) fun h => ⟨_, .addIWraps h⟩
  | ldB x => exact (Nat.lt_or_ge _ _).elim (fun h => ⟨_, .fatal (.ldB h)⟩) fun h => ⟨_, .ldB h⟩
  | storeRegs x => exact (Nat.lt_or_ge _ _).elim (fun h => ⟨_, .fatal (.storeRegs h)⟩) fun h => ⟨_, .storeRegs h⟩
  | loadRegs x => exact (Nat.lt_or_ge _ _).elim (fun h => ⟨_, .fatal (.loadRegs h)⟩) fun h => ⟨_, .loadRegs h⟩
  | _ => exact ⟨_, by constructor⟩

theorem exec_iff_effect {i : Instr} {s t : State} : exec i s = .next t ↔ Effect s i t := by
  constructor
  · intro h
    obtain ⟨u, hu⟩ := exists_effect i s
    cases hu.exec.symm.trans h
    exact hu
  · exact Effect.exec

end Sys2Proof.Machine
end

section
/-!
PROOFS. The family other, the step cycle: what a step does, in terms of the effects, and the statements about every step.
-/

namespace Sys2Proof.Machine

/-! ## A step by its effect -/

/-- Only a fatal condition halts, and it leaves the state as raised. -/
theorem Effect.halted {s t : State} {i : Instr} (h : Effect s i t) :
    t.halted = s.halted ∨ ∃ f info, Fatal s i f info ∧ t = s.raise f info := by
  cases h with
  | fatal h => exact .inr ⟨_, _, h, rfl⟩
  | or | and | xor => exact .inl (State.setRegLogic_halted ..)
  | _ => exact .inl rfl

/-- No instruction uses up the inputs of its step. -/
theorem Effect.now {s t : State} {i : Instr} (h : Effect s i t) : t.now = s.now := by
  cases h with
  | or | and | xor => exact State.now_congr (State.setRegLogic_inputs ..) (State.setRegLogic_stepNo ..)
  | _ => rfl

/-- The fatal conditions of a step, of the fetch, of the decoder and of the execute phase: cause and info (60_exceptions R240). -/
inductive FatalStep (s : State) : Fault → Word → Prop
  | fetch (above : 0xFFE < s.pc.toNat) : FatalStep s .fetchOutOfBounds 0
  | decode (hpc : s.pc.toNat ≤ 0xFFE)
      (hd : decodeWord (readWord s.mem s.pc.toNat) = .refused (.unrecognized (readWord s.mem s.pc.toNat))) :
      FatalStep s .unrecognizedInstruction (readWord s.mem s.pc.toNat)
  | execute {i f info} (hpc : s.pc.toNat ≤ 0xFFE) (hd : decodeWord (readWord s.mem s.pc.toNat) = .ok i)
      (h : Fatal s.executing i f info) : FatalStep s f info

theorem State.executing_raise (s : State) (f : Fault) (info : Word) :
    s.executing.raise f info = (timerTick s.now.elapsedUs s).raiseAt f s.pc info := by
  rw [State.raise, State.executing_instrAddr]; rfl

/-- A step of a running machine raises a fatal condition, with only the timer phase done, or it runs an instruction and
latches. -/
theorem step_fatal_or_effect {s t : State} (h : s.halted = false) (hs : step s = .next t) :
    (∃ f info, FatalStep s f info ∧ t = ((timerTick s.now.elapsedUs s).raiseAt f s.pc info).consume) ∨
    (∃ i u, s.pc.toNat ≤ 0xFFE ∧ decodeWord (readWord s.mem s.pc.toNat) = .ok i ∧ Effect s.executing i u ∧
      u.halted = false ∧ t = u.latch.consume) := by
  obtain ⟨above, rfl⟩ | ⟨hpc, hd, rfl⟩ | ⟨hpc, i, u, hd, hx, rfl⟩ := step_cases h hs
  · exact .inl ⟨_, _, .fetch above, State.endStep_halted rfl⟩
  · exact .inl ⟨_, _, .decode hpc hd, State.endStep_halted rfl⟩
  · have effect := exec_iff_effect.1 hx
    obtain same | ⟨f, info, fatal, rfl⟩ := effect.halted
    · have running : u.halted = false := same.trans h
      exact .inr ⟨i, u, hpc, hd, effect, running, State.endStep_running running⟩
    · refine .inl ⟨f, info, .execute hpc hd fatal, ?_⟩
      rw [State.endStep_halted (State.raise_halted ..), State.executing_raise]

theorem fatalStep_of_halted {s t : State} (h : s.halted = false) (hs : step s = .next t) (ht : t.halted = true) :
    ∃ f info, FatalStep s f info ∧ t = ((timerTick s.now.elapsedUs s).raiseAt f s.pc info).consume := by
  obtain fatal | ⟨i, u, -, -, -, running, rfl⟩ := step_fatal_or_effect h hs
  · exact fatal
  · cases running.symm.trans ht

theorem effect_of_running {s t : State} (h : s.halted = false) (hs : step s = .next t) (ht : t.halted = false) :
    ∃ i u, decodeWord (readWord s.mem s.pc.toNat) = .ok i ∧ Effect s.executing i u ∧ u.halted = false ∧
      t = u.latch.consume := by
  obtain ⟨f, info, -, rfl⟩ | ⟨i, u, -, hd, effect, running, rfl⟩ := step_fatal_or_effect h hs
  · cases ht
  · exact ⟨i, u, hd, effect, running, rfl⟩

/-! ## Totality, and a step as `exec` between its phases (40_step_cycle R114, R121) -/

theorem exists_exec (i : Instr) (s : State) : ∃ t, exec i s = .next t :=
  (exists_effect i s).imp fun _ h => h.exec

theorem exists_step (s : State) : ∃ t, step s = .next t := by
  by_cases h : s.halted = true
  · exact ⟨s, step_halted h⟩
  replace h := eq_false_of_ne_true h
  obtain hpc | hpc := Nat.lt_or_ge 0xFFE s.pc.toNat
  · exact ⟨_, step_fetchOutOfBounds h hpc⟩
  cases hd : decodeWord (readWord s.mem s.pc.toNat) with
  | refused e => exact ⟨_, step_unrecognized h hpc hd⟩
  | ok i =>
    obtain ⟨u, hu⟩ := exists_exec i s.executing
    exact ⟨u.endStep, by rw [step_decoded h hpc hd, hu]; rfl⟩

/-- Settles O10: the effects leave out no state, and a step that runs no instruction raises. -/
theorem everyStepAnswersNext : Obligations.EveryStepAnswersNext :=
  ⟨exists_step, exists_exec⟩

theorem decodeWord_of_decodeBytes {hi lo : Byte} {i : Instr} (h : decodeBytes [hi, lo] = .ok (i, [])) :
    decodeWord (wordOfBytes hi lo) = .ok i := by
  rw [decodeBytes] at h
  split at h
  · next hd => cases h; exact hd
  · cases h

/-- Settles O6: the state written out is that of the execute phase, and the two endings are the two cases of the end of a step. -/
theorem stepRunsDecodedInstruction : Obligations.StepRunsDecodedInstruction := by
  intro s i h hpc _ hd total before
  have phase : before = s.executing := rfl
  obtain ⟨t, ht⟩ := exists_exec i s.executing
  rw [step_decoded h hpc (decodeWord_of_decodeBytes hd), phase, ht]
  show Host.Outcome.next t.endStep = ite _ _ _
  split
  · next halted => rw [State.endStep_halted halted]; rfl
  · next running => rw [State.endStep_running (eq_false_of_ne_true running)]; rfl

/-! ## Halting (60_exceptions R240 to R248) -/

/-- Settles O7: the record is the one `raiseAt` writes, and the end of the step keeps it. -/
theorem fetchOutsideMemoryRaises : Obligations.FetchOutsideMemoryRaises :=
  fun _ h hpc => ⟨_, step_fetchOutOfBounds h hpc, rfl, rfl, rfl, rfl, rfl⟩

theorem readWord_of_fetch {s : State} {w : Word} (h : fetch s = some w) :
    s.pc.toNat ≤ 0xFFE ∧ readWord s.mem s.pc.toNat = w := by
  obtain hpc | hpc := Nat.lt_or_ge 0xFFE s.pc.toNat
  · cases (fetch_eq_none hpc).symm.trans h
  · exact ⟨hpc, Option.some.inj ((fetch_eq_some hpc).symm.trans h)⟩

/-- Settles O8: a word outside the opcode map is refused by the decoder, and the step raises at the instruction. -/
theorem unrecognizedWordRaises : Obligations.UnrecognizedWordRaises := by
  intro s w h hf no
  obtain ⟨hpc, rfl⟩ := readWord_of_fetch hf
  obtain ⟨-, -, -, refused⟩ := decodingFollowsOpcodeMap (readWord s.mem s.pc.toNat)
  exact ⟨_, step_unrecognized h hpc (refused no), rfl, rfl, rfl, rfl, rfl⟩

/-- Settles O9: the first test of a step. -/
theorem haltedStepChangesNothing : Obligations.HaltedStepChangesNothing :=
  fun _ h => step_halted h

/-- Settles O11: a step that halts is the timer phase and one raise, which writes `pc` and the record only. -/
theorem fatalStepIsPrecise : Obligations.FatalStepIsPrecise := by
  intro s t h hs ht total
  obtain ⟨f, info, -, rfl⟩ := fatalStep_of_halted h hs ht
  exact ⟨rfl, rfl, rfl, fun _ _ => rfl, rfl, fun _ => rfl, rfl, rfl, rfl, rfl, rfl, timerTick_toNat s s.now.elapsedUs⟩

theorem State.spriteRows_eq (s : State) (y n : Nibble) :
    s.spriteRows y n = min n.toNat (32 - (if y = 0xF then 0 else (s.reg y).toNat) % 32) := by
  rw [State.spriteRows, State.originRow_eq]

/-- The highest row address of a draw, as the statements write it. -/
theorem State.lastRow_eq {s : State} {y n : Nibble} (rows : 0 < s.spriteRows y n) : s.index.toNat + (s.spriteRows y n - 1) =
    s.index.toNat + min n.toNat (32 - (if y = 0xF then 0 else (s.reg y).toNat) % 32) - 1 := by
  rw [← State.spriteRows_eq, Nat.add_sub_assoc rows]

/-- A draw has rows exactly when its operand is not 0: the origin wraps, so its row lies in the display. -/
theorem State.spriteRows_pos {s : State} {y n : Nibble} : 0 < s.spriteRows y n ↔ 1 ≤ n.toNat := by
  have row : s.originRow y < 32 := Nat.mod_lt _ (by decide)
  unfold State.spriteRows
  omega

/-- Settles O12: each fatal condition of a step is one of the listed events. -/
theorem onlyTheseEventsHalt : Obligations.OnlyTheseEventsHalt := by
  intro s t h hs ht w
  obtain ⟨f, info, reason, rfl⟩ := fatalStep_of_halted h hs ht
  cases reason with
  | fetch above => exact .inl ⟨above, rfl, rfl⟩
  | decode hpc hd => exact .inr ⟨hpc, .inl ⟨hd, rfl, rfl⟩⟩
  | @execute i _ _ hpc hd reason =>
    refine .inr ⟨hpc, .inr ⟨i, hd, ?_⟩⟩
    have word : encode i = w := encode_of_decodeWord hd
    cases reason with
    | call full => exact .inl ⟨_, rfl, full, rfl, word⟩
    | ret empty => exact .inr (.inl ⟨rfl, empty, rfl, word⟩)
    | ldB above => exact .inr (.inr (.inl ⟨_, above, rfl, rfl, .inl ⟨_, rfl, rfl⟩⟩))
    | storeRegs above => exact .inr (.inr (.inl ⟨_, above, rfl, rfl, .inr (.inl ⟨_, .inl rfl, rfl⟩)⟩))
    | loadRegs above => exact .inr (.inr (.inl ⟨_, above, rfl, rfl, .inr (.inl ⟨_, .inr rfl, rfl⟩)⟩))
    | drw render rows above =>
      exact .inr (.inr (.inl ⟨_, above, rfl, rfl, .inr (.inr ⟨_, _, _, rfl, render, State.spriteRows_pos.1 rows,
        State.lastRow_eq rows⟩)⟩))
    | skp above => exact .inr (.inr (.inr ⟨_, .inl rfl, above, rfl, BitVec.toNat_setWidth_of_le (by decide)⟩))
    | sknp above => exact .inr (.inr (.inr ⟨_, .inr rfl, above, rfl, BitVec.toNat_setWidth_of_le (by decide)⟩))

theorem Fault.code_ne_zero : ∀ f : Fault, f.code ≠ 0
  | .unrecognizedInstruction | .fetchOutOfBounds | .stackOverflow | .stackUnderflow | .dataAddressOutOfBounds
  | .keyIndexOutOfRange => by decide

theorem State.verdict_some {s : State} {f : Fault} (h : s.faultCause = some f) : s.verdict = .fault f := by
  rw [State.verdict, h]

theorem State.verdict_none {s : State} (h : s.faultCause = none) : s.verdict = .next s := by
  rw [State.verdict, h]

theorem State.faultCode_some {s : State} {f : Fault} (h : s.faultCause = some f) : s.faultCode = f.code := by
  rw [State.faultCode, h]

theorem State.faultCode_none {s : State} (h : s.faultCause = none) : s.faultCode = 0 := by
  rw [State.faultCode, h]

/-- Settles O16: by the invariant a cause is recorded exactly when halted, and no cause has code 0. -/
theorem haltedStateIsAFault : Obligations.HaltedStateIsAFault := by
  intro s inv
  cases hc : s.faultCause with
  | none =>
    have running := inv.cause_iff.1 hc
    exact ⟨fun halted => (nomatch running.symm.trans halted), fun _ => ⟨State.verdict_none hc, State.faultCode_none hc⟩⟩
  | some f =>
    have halted : s.halted ≠ false := fun running => nomatch hc.symm.trans (inv.cause_iff.2 running)
    have code := State.faultCode_some hc
    exact ⟨fun _ => ⟨f, rfl, State.verdict_some hc, code, code ▸ f.code_ne_zero⟩, fun running => absurd running halted⟩

/-! ## The latch, `pc`, and blocking (40_step_cycle R118, R119, 10_state R28) -/

/-- Settles O13: the latch ends a step that runs an instruction, and no instruction uses up the inputs it takes. -/
theorem latchEndsEveryNonFatalStep : Obligations.LatchEndsEveryNonFatalStep := by
  intro s t h hs
  constructor
  · intro ht
    obtain ⟨i, u, -, effect, -, rfl⟩ := effect_of_running h hs ht
    exact congrArg Inputs.keyNow effect.now
  · intro ht
    obtain ⟨f, info, -, rfl⟩ := fatalStep_of_halted h hs ht
    rfl

theorem State.released_iff {s : State} {k : Fin 16} : s.released[k.val] = true ↔ ReleaseEdge s k := by
  rw [State.released_getElem, Bool.and_eq_true, Bool.not_eq_true', ReleaseEdge]

theorem releaseEdge_of_keyPick {s : State} {k : Fin 16} (h : keyPick s.released = some k) : ReleaseEdge s k :=
  State.released_iff.1 (keyPick_mem h)

theorem keyPick_released_none {s : State} : keyPick s.released = none ↔ ¬ ∃ k, ReleaseEdge s k := by
  simp only [keyPick_none, not_exists, ← State.released_iff, Bool.not_eq_true]

theorem State.executing_skipTarget (s : State) (c : Bool) :
    s.executing.skipTarget c = if c = true then s.pc + 4 else s.pc + 2 := by
  have twice : s.pc + 2 + 2 = s.pc + 4 := BitVec.add_assoc ..
  rw [← twice]; rfl

theorem State.executing_skipTarget_not (s : State) :
    ∀ c : Bool, s.executing.skipTarget (!c) = if c = false then s.pc + 4 else s.pc + 2
  | true => s.executing_skipTarget false
  | false => s.executing_skipTarget true

theorem jumpSum_toNat (nnn : Addr12) (v : Byte) : (jumpSum nnn v).toNat = nnn.toNat + v.toNat := by
  rw [jumpSum, BitVec.toNat_ofNat]; omega

/-- Settles O14: a fatal step leaves `pc` at the instruction; otherwise the effect of the instruction says where it stands. -/
theorem pcAfterEveryStep : Obligations.PcAfterEveryStep := by
  intro s t h hs a
  constructor
  · intro ht
    obtain ⟨f, info, -, rfl⟩ := fatalStep_of_halted h hs ht
    rfl
  intro ht
  obtain ⟨i, u, hd, effect, running, rfl⟩ := effect_of_running h hs ht
  refine ⟨i, hd, ?_⟩
  rw [State.consume_pc, State.latch_pc]
  cases effect with
  | fatal => cases running
  | jp => exact addrOperand_toNat _
  | call room => exact ⟨addrOperand_toNat _, room, Vector.getElem_set_self ..⟩
  | ret bound => exact ⟨bound, rfl⟩
  | jpV0 => exact jumpSum_toNat ..
  | seImm | sneImm | seReg | sneReg => simp [State.executing_skipTarget, a]
  | skp index => exact ⟨index, s.executing_skipTarget _⟩
  | sknp index => exact ⟨index, s.executing_skipTarget_not _⟩
  | drwBlocked wait => exact s.executing_instrAddr.trans (if_neg (Bool.eq_false_iff.1 wait)).symm
  | drw render => exact (if_pos render).symm
  | ldVxKBlocked wait => exact ⟨fun edge => absurd edge (keyPick_released_none.1 wait), fun _ => s.executing_instrAddr⟩
  | ldVxK pick => exact ⟨fun _ => rfl, fun noEdge => absurd ⟨_, releaseEdge_of_keyPick pick⟩ noEdge⟩
  | or | and | xor => exact State.setRegLogic_pc ..
  | _ => rfl

theorem State.executing_rewind (s : State) : s.executing.rewind = timerTick s.now.elapsedUs s := by
  rw [State.rewind, State.executing_instrAddr]; rfl

/-- A rewound instruction leaves the timer phase, which the end of the step then latches. -/
theorem step_of_exec_rewind {s : State} {i : Instr} (h : s.halted = false) (hpc : s.pc.toNat ≤ 0xFFE)
    (hd : decodeWord (readWord s.mem s.pc.toNat) = .ok i) (hx : exec i s.executing = .next s.executing.rewind) :
    step s = .next (timerTick s.now.elapsedUs s).latch.consume := by
  rw [step_decoded h hpc hd, hx, State.executing_rewind]
  exact congrArg Host.Outcome.next (State.endStep_running h)

/-- Settles O15: both blocked instructions rewind `pc` and do nothing else. -/
theorem blockedStepRetries : Obligations.BlockedStepRetries := by
  rintro s i h hpc hd (⟨⟨x, y, n, rfl⟩, wait⟩ | ⟨⟨x, rfl⟩, noEdge⟩)
  · exact step_of_exec_rewind h hpc hd (Effect.drwBlocked (s := s.executing) wait).exec
  · exact step_of_exec_rewind h hpc hd (Effect.ldVxKBlocked (s := s.executing) (keyPick_released_none.2 noEdge)).exec

end Sys2Proof.Machine
end

section
/-!
PROOFS. The family other, the timers: the closed form against the loop, time that adds up, and the phase in every step.
-/

namespace Sys2Proof.Machine

/-! ## A timer after a number of decrements (60_exceptions R258) -/

theorem timerAfter_toNat (t : Byte) (k : Nat) : (timerAfter t k).toNat = t.toNat - k := by
  have := t.isLt
  rw [timerAfter, BitVec.toNat_ofNat]; omega

theorem timerAfter_zero (t : Byte) : timerAfter t 0 = t :=
  BitVec.eq_of_toNat_eq (timerAfter_toNat t 0)

theorem timerAfter_add (t : Byte) (j k : Nat) : timerAfter (timerAfter t j) k = timerAfter t (j + k) := by
  apply BitVec.eq_of_toNat_eq
  rw [timerAfter_toNat, timerAfter_toNat, timerAfter_toNat, Nat.sub_sub]

/-- The loop's decrement, which stops at 0. -/
theorem decrement_eq_timerAfter (t : Byte) : (if t.toNat > 0 then t - 1 else t) = timerAfter t 1 := by
  apply BitVec.eq_of_toNat_eq
  rw [timerAfter_toNat]
  split
  · bv_omega
  · omega

/-- The loop leaves the remainder, and takes the whole intervals off both timers. -/
theorem timerLoop_eq (fuel acc : Nat) (dt st : Byte) (h : acc / 16667 ≤ fuel) :
    timerLoop fuel acc dt st = (acc % 16667, timerAfter dt (acc / 16667), timerAfter st (acc / 16667)) := by
  induction fuel generalizing acc dt st with
  | zero =>
    have noInterval : acc / 16667 = 0 := by omega
    have rest : acc % 16667 = acc := by omega
    rw [noInterval, rest, timerAfter_zero, timerAfter_zero]; rfl
  | succ fuel ih =>
    unfold timerLoop Config.timerInterval
    split
    · have count : acc / 16667 = 1 + (acc - 16667) / 16667 := by omega
      have rest : acc % 16667 = (acc - 16667) % 16667 := by omega
      rw [ih _ _ _ (by omega), decrement_eq_timerAfter, decrement_eq_timerAfter, timerAfter_add, timerAfter_add, count, rest]
    · have noInterval : acc / 16667 = 0 := by omega
      have rest : acc % 16667 = acc := by omega
      rw [noInterval, rest, timerAfter_zero, timerAfter_zero]

/-- Settles O17: the loop's count of iterations is the number of whole intervals. -/
theorem timerPhaseIsTheLoop : Obligations.TimerPhaseIsTheLoop := by
  intro s elapsed fuel h
  obtain ⟨-, -, acc⟩ := timerTick_toNat s elapsed
  rw [timerLoop_eq fuel _ _ _ h, acc]; rfl

/-- The intervals of a first time, and those of a second with what the first left over. -/
theorem intervals_add (a e₁ e₂ : Nat) :
    (a + e₁) / 16667 + ((a + e₁) % 16667 + e₂) / 16667 = (a + (e₁ + e₂)) / 16667 := by omega

/-- Settles O19: what the first phase leaves in the accumulator is what its whole intervals leave over. -/
theorem elapsedTimeAddsUp : Obligations.ElapsedTimeAddsUp := by
  intro s e₁ e₂ h
  have sum : (e₁ + e₂).toNat = e₁.toNat + e₂.toNat := BitVec.toNat_add_of_lt h
  obtain ⟨dt₁, st₁, acc₁⟩ := timerTick_toNat s e₁
  obtain ⟨dt₂, st₂, acc₂⟩ := timerTick_toNat (timerTick e₁ s) e₂
  obtain ⟨dt₃, st₃, acc₃⟩ := timerTick_toNat s (e₁ + e₂)
  have dt : (timerTick e₂ (timerTick e₁ s)).dt = (timerTick (e₁ + e₂) s).dt :=
    BitVec.eq_of_toNat_eq (by rw [dt₂, dt₁, acc₁, dt₃, sum, Nat.sub_sub, intervals_add])
  have st : (timerTick e₂ (timerTick e₁ s)).st = (timerTick (e₁ + e₂) s).st :=
    BitVec.eq_of_toNat_eq (by rw [st₂, st₁, acc₁, st₃, sum, Nat.sub_sub, intervals_add])
  have acc : (timerTick e₂ (timerTick e₁ s)).acc = (timerTick (e₁ + e₂) s).acc :=
    BitVec.eq_of_toNat_eq (by rw [acc₂, acc₁, acc₃, sum, Nat.mod_add_mod, Nat.add_assoc])
  calc timerTick e₂ (timerTick e₁ s)
      = { s with
          dt := (timerTick e₂ (timerTick e₁ s)).dt
          st := (timerTick e₂ (timerTick e₁ s)).st
          acc := (timerTick e₂ (timerTick e₁ s)).acc } := rfl
    _ = timerTick (e₁ + e₂) s := by rw [dt, st, acc]; rfl

/-! ## The timer phase in every step (decision D2) -/

theorem Effect.acc {s t : State} {i : Instr} (h : Effect s i t) : t.acc = s.acc := by
  cases h with
  | or | and | xor => exact State.setRegLogic_acc ..
  | _ => rfl

theorem Effect.dt {s t : State} {i : Instr} (h : Effect s i t) (other : ∀ x, i ≠ .ldDT x) : t.dt = s.dt := by
  cases h with
  | ldDT => exact absurd rfl (other _)
  | or | and | xor => exact State.setRegLogic_dt ..
  | _ => rfl

theorem Effect.st {s t : State} {i : Instr} (h : Effect s i t) (other : ∀ x, i ≠ .ldST x) : t.st = s.st := by
  cases h with
  | ldST => exact absurd rfl (other _)
  | or | and | xor => exact State.setRegLogic_st ..
  | _ => rfl

/-- A step that decoded an instruction ran it on the state after the timer phase, and the end of the step changed no timer and
no register. -/
theorem effect_of_step {s t : State} {i : Instr} (h : s.halted = false) (hs : step s = .next t) (hpc : s.pc.toNat ≤ 0xFFE)
    (hd : decodeWord (readWord s.mem s.pc.toNat) = .ok i) : ∃ u, Effect s.executing i u ∧ t = u.endStep := by
  obtain ⟨u, hu⟩ := exists_effect i s.executing
  rw [step_decoded h hpc hd, hu.exec] at hs
  cases hs
  exact ⟨u, hu, rfl⟩

/-- A step whose word is not that of `i` ran no `i`. -/
theorem ne_of_not_decoded {s : State} {i j : Instr} (hpc : s.pc.toNat ≤ 0xFFE)
    (hd : decodeWord (readWord s.mem s.pc.toNat) = .ok j)
    (other : 0xFFE < s.pc.toNat ∨ decodeWord (readWord s.mem s.pc.toNat) ≠ .ok i) : j ≠ i := by
  rintro rfl
  exact other.elim (Nat.not_lt.2 hpc) fun ne => ne hd

/-- Settles O18: a fatal step keeps the timer phase, and the effect of an instruction starts from it. -/
theorem timersRunInEveryStep : Obligations.TimersRunInEveryStep := by
  intro s t h hs total w
  obtain ⟨dt, st, acc⟩ := timerTick_toNat s s.now.elapsedUs
  refine ⟨?acc, ?dt, ?st, fun hpc x hd => ?loadDT, fun hpc x hd => ?loadST, fun hpc x hd => ?readDT⟩
  case acc =>
    obtain ⟨f, info, -, rfl⟩ | ⟨i, u, -, -, effect, -, rfl⟩ := step_fatal_or_effect h hs
    · exact acc
    · exact (congrArg BitVec.toNat effect.acc).trans acc
  case dt =>
    intro other
    obtain ⟨f, info, -, rfl⟩ | ⟨i, u, hpc, hd, effect, -, rfl⟩ := step_fatal_or_effect h hs
    · exact dt
    · have unread x := ne_of_not_decoded hpc hd (other.imp_right fun no => no x)
      exact (congrArg BitVec.toNat (effect.dt unread)).trans dt
  case st =>
    intro other
    obtain ⟨f, info, -, rfl⟩ | ⟨i, u, hpc, hd, effect, -, rfl⟩ := step_fatal_or_effect h hs
    · exact st
    · have unread x := ne_of_not_decoded hpc hd (other.imp_right fun no => no x)
      exact (congrArg BitVec.toNat (effect.st unread)).trans st
  case loadDT =>
    obtain ⟨u, effect, rfl⟩ := effect_of_step h hs hpc hd
    cases effect with
    | ldDT => exact State.endStep_dt _
    | fatal reason => cases reason
  case loadST =>
    obtain ⟨u, effect, rfl⟩ := effect_of_step h hs hpc hd
    cases effect with
    | ldST => exact State.endStep_st _
    | fatal reason => cases reason
  case readDT =>
    obtain ⟨u, effect, rfl⟩ := effect_of_step h hs hpc hd
    cases effect with
    | ldVxDT => rw [State.endStep_reg, State.setReg_reg_same]; exact dt
    | fatal reason => cases reason

end Sys2Proof.Machine
end

section
/-!
PROOFS. The family other, the invariants of 10_state R42: each update keeps them under its bound, so every effect and every
step keeps them, and creation meets them.
-/

namespace Sys2Proof.Machine

/-! ## Updates that keep the invariants -/

section
variable {s : State} (inv : s.Inv)
include inv

theorem State.Inv.setReg (x : Nibble) (b : Byte) : (s.setReg x b).Inv := { inv with mem_wf := inv.mem_wf }

theorem State.Inv.setRegs (v : RegFile) : (s.setRegs v).Inv := { inv with mem_wf := inv.mem_wf }

theorem State.Inv.setDisp (d : Display) : (s.setDisp d).Inv := { inv with mem_wf := inv.mem_wf }

theorem State.Inv.setDT (b : Byte) : (s.setDT b).Inv := { inv with mem_wf := inv.mem_wf }

theorem State.Inv.setST (b : Byte) : (s.setST b).Inv := { inv with mem_wf := inv.mem_wf }

theorem State.Inv.latch_consume : s.latch.consume.Inv := { inv with mem_wf := inv.mem_wf }

theorem State.Inv.consume : s.consume.Inv := { inv with mem_wf := inv.mem_wf }

theorem State.Inv.setRegLogic (x : Nibble) (b : Byte) : (s.setRegLogic x b).Inv := by
  unfold State.setRegLogic
  split
  · exact (inv.setReg x b).setReg 0xF 0
  · exact inv.setReg x b

theorem State.Inv.setIndex {a : Word} (h : a.toNat ≤ 4095) : (s.setIndex a).Inv := { inv with index_le := h }

theorem State.Inv.setMem {m : Memory} (h : m.wf = true) : (s.setMem m).Inv := { inv with mem_wf := h }

theorem State.Inv.jump {a : Word} (h : a.toNat ≤ 4350) : (s.jump a).Inv := { inv with pc_le := h }

theorem State.Inv.raiseAt (f : Fault) {a : Word} (info : Word) (h : a.toNat ≤ 4350) : (s.raiseAt f a info).Inv :=
  { inv with pc_le := h, faultAddr_le := h, cause_iff := iff_of_false nofun nofun }

theorem State.Inv.timerTick (e : BitVec 32) : (timerTick e s).Inv :=
  { inv with acc_le := by rw [(timerTick_toNat s e).2.2]; omega }

/-- A push of an address up to 4096. -/
theorem State.Inv.push {a : Word} (h : s.sp.val < 64) (ha : a.toNat ≤ 4096) : State.Inv { s with
    stack := s.stack.set s.sp.val a h, sp := ⟨s.sp.val + 1, Nat.succ_lt_succ h⟩ } where
  mem_wf := inv.mem_wf
  index_le := inv.index_le
  acc_le := inv.acc_le
  pc_le := inv.pc_le
  cause_iff := inv.cause_iff
  faultAddr_le := inv.faultAddr_le
  stack_le k hk := by
    rw [Vector.getElem_set]
    split
    · exact ha
    · next other => exact inv.stack_le k (Nat.lt_of_le_of_ne (Nat.le_of_lt_succ hk) (Ne.symm other))

theorem State.Inv.pop (h : s.sp.val - 1 < 65) : State.Inv { s with sp := ⟨s.sp.val - 1, h⟩ } :=
  { inv with stack_le := fun k hk => inv.stack_le k (Nat.lt_of_lt_of_le hk (Nat.sub_le ..)) }

end

/-! ## The bounds of the values written -/

theorem indexOfNat_le (n : Nat) : (indexOfNat n).toNat ≤ 4095 := by
  rw [indexOfNat, BitVec.toNat_ofNat]; omega

theorem glyphAddr_toNat (v : Byte) : (glyphAddr v).toNat = 0x50 + 5 * v.toNat := by
  rw [glyphAddr, BitVec.toNat_ofNat, Config.fontBase, Config.glyphLen]; omega

theorem State.nextIndex_le {s : State} (h : s.index.toNat ≤ 4095) (k : Nat) : (s.nextIndex k).toNat ≤ 4095 := by
  unfold State.nextIndex
  split
  · exact indexOfNat_le _
  · exact h

theorem State.skipTarget_le {s : State} (h : s.pc.toNat ≤ 4096) (c : Bool) : (s.skipTarget c).toNat ≤ 4350 := by
  unfold State.skipTarget
  split
  · bv_omega
  · omega

theorem addrOperand_le (nnn : Addr12) : (addrOperand nnn).toNat ≤ 4095 := by
  rw [addrOperand_toNat]; omega

/-! ## Effects and steps -/

/-- Every effect keeps the invariants, in the execute phase: `pc` is at most 4096 and the instruction lies where `pc` may. -/
theorem Effect.inv {s t : State} {i : Instr} (h : Effect s i t) (inv : s.Inv) (hpc : s.pc.toNat ≤ 4096)
    (addr : s.instrAddr.toNat ≤ 4350) : t.Inv := by
  cases h with
  | cls => exact inv.setDisp _
  | ret bound bound' used =>
    exact (inv.pop bound').jump (Nat.le_trans (inv.stack_le ⟨s.sp.val - 1, bound⟩ (Nat.sub_one_lt_of_lt used)) (by decide))
  | call room => exact (inv.push room hpc).jump (Nat.le_trans (addrOperand_le _) (by decide))
  | jp => exact inv.jump (Nat.le_trans (addrOperand_le _) (by decide))
  | jpV0 => exact inv.jump (by rw [jumpSum_toNat]; omega)
  | seImm | sneImm | seReg | sneReg | skp | sknp => exact inv.jump (State.skipTarget_le hpc _)
  | drwBlocked | ldVxKBlocked => exact inv.jump addr
  | ldImm | addImm | ldReg | rnd | ldVxDT | ldVxK => exact inv.setReg _ _
  | or | and | xor => exact inv.setRegLogic _ _
  | addReg | subReg | shr | subn | shl => exact (inv.setReg _ _).setReg _ _
  | ldI => exact inv.setIndex (addrOperand_le _)
  | addI below => exact inv.setIndex (by rw [BitVec.toNat_ofNat]; omega)
  | addIWraps => exact (inv.setIndex (indexOfNat_le _)).setReg _ _
  | ldF => exact inv.setIndex (by rw [glyphAddr_toNat]; omega)
  | ldB inMemory => exact inv.setMem (Memory.writeBytes_wf _ inv.mem_wf (Nat.succ_le_succ inMemory))
  | @storeRegs x inMemory =>
    have bytes : s.index.toNat + (s.regsUpTo x).length ≤ 0x1000 := by
      rw [State.regsUpTo_length]; exact Nat.succ_le_succ inMemory
    exact (inv.setMem (Memory.writeBytes_wf _ inv.mem_wf bytes)).setIndex (State.nextIndex_le inv.index_le _)
  | loadRegs => exact (inv.setRegs _).setIndex (State.nextIndex_le inv.index_le _)
  | drw => exact (inv.setDisp _).setReg _ _
  | ldDT => exact inv.setDT _
  | ldST => exact inv.setST _
  | fatal => exact inv.raiseAt _ _ addr

theorem Effect.quirk {s t : State} {i : Instr} (h : Effect s i t) : t.quirk = s.quirk := by
  cases h with
  | or | and | xor => exact State.setRegLogic_quirk ..
  | _ => rfl

theorem State.executing_pc_le {s : State} (hpc : s.pc.toNat ≤ 0xFFE) : s.executing.pc.toNat ≤ 4096 := by
  rw [State.executing_pc]; bv_omega

/-- Settles O20: a fatal step records an address that `pc` held; every other step is the timer phase, an effect and the latch. -/
theorem stepKeepsInvariant : Obligations.StepKeepsInvariant := by
  intro s t inv hs
  by_cases halted : s.halted = true
  · cases (step_halted halted).symm.trans hs
    exact ⟨inv, rfl⟩
  have afterTimer := inv.timerTick s.now.elapsedUs
  obtain ⟨f, info, -, rfl⟩ | ⟨i, u, hpc, -, effect, -, rfl⟩ :=
    step_fatal_or_effect (eq_false_of_ne_true halted) hs
  · exact ⟨(afterTimer.raiseAt f info inv.pc_le).consume, rfl⟩
  · have advanced := State.executing_pc_le hpc
    have executing : s.executing.Inv := afterTimer.jump (Nat.le_trans advanced (by decide))
    have addr : s.executing.instrAddr.toNat ≤ 4350 := by rw [State.executing_instrAddr]; exact inv.pc_le
    exact ⟨(effect.inv executing advanced addr).latch_consume, effect.quirk⟩

/-- Settles O21: memory is empty, no stack entry is in use, and the numbers are 0 or 0x200. -/
theorem resetMeetsInvariant : Obligations.ResetMeetsInvariant where
  mem_wf := reset_mem_wf
  index_le := by decide
  acc_le := by decide
  pc_le := by decide
  stack_le _ used := absurd used (Nat.not_lt_zero _)
  cause_iff := iff_of_true rfl rfl
  faultAddr_le := by decide

end Sys2Proof.Machine
end

section
/-!
PROOFS. The family other, creation (70_reset_and_hazards R281 to R283).
-/

namespace Sys2Proof.Machine

/-- The machine that creation answers (R281). -/
def State.created (program : List Byte) (quirk : Bool) : State :=
  { State.reset with mem := State.reset.mem.writeBytes 0x200 program, quirk := quirk }

theorem create_eq_created {program : List Byte} (h : program.length ≤ 3584) (quirk : Bool) :
    create program quirk = .next (State.created program quirk) := if_pos (decide_eq_true h)

/-- Settles O26: the length check of creation. -/
theorem creationRefusesLongProgram : Obligations.CreationRefusesLongProgram :=
  fun _ _ h => if_neg (Bool.eq_false_iff.1 (decide_eq_false (Nat.not_le.2 h)))

theorem created_of_create {program : List Byte} {quirk : Bool} {s : State} (h : create program quirk = .next s) :
    program.length ≤ 3584 ∧ s = State.created program quirk := by
  obtain long | fits := Nat.lt_or_ge 3584 program.length
  · cases (creationRefusesLongProgram program quirk long).symm.trans h
  · cases (create_eq_created fits quirk).symm.trans h
    exact ⟨fits, rfl⟩

/-- Settles O22: a program that fits keeps memory canonical, and everything else is as after reset. -/
theorem creationMeetsInvariant : Obligations.CreationMeetsInvariant := by
  intro program quirk s h
  obtain ⟨fits, rfl⟩ := created_of_create h
  have memory : (State.created program quirk).mem.wf = true := Memory.writeBytes_wf program reset_mem_wf (by omega)
  exact ⟨{ resetMeetsInvariant with mem_wf := memory }, rfl, rfl⟩

/-- A read of one of a run of bytes just written. -/
theorem Memory.read_writeBytes_add (m : Memory) (a : Nat) {bs : List Byte} {i : Nat} (h : i < bs.length) :
    (m.writeBytes a bs).read (a + i) = bs[i] := by
  rw [Memory.read_writeBytes, dif_pos ⟨Nat.le_add_right .., Nat.add_lt_add_left h _⟩]
  simp only [Nat.add_sub_cancel_left]

theorem created_read_program {program : List Byte} (quirk : Bool) {i : Nat} (h : i < program.length) :
    (State.created program quirk).mem.read (0x200 + i) = program[i] :=
  Memory.read_writeBytes_add State.reset.mem 0x200 h

theorem created_read_outside {program : List Byte} (quirk : Bool) {a : Nat} (h : a < 0x200 ∨ 0x200 + program.length ≤ a) :
    (State.created program quirk).mem.read a = initialByte a :=
  Memory.read_writeBytes_outside program State.reset.mem h

/-- Settles O23: the reads of the bytes written, and of memory that nothing has written. -/
theorem creationLoadsProgram : Obligations.CreationLoadsProgram := by
  intro program quirk fits
  refine ⟨_, create_eq_created fits quirk, fun i h => created_read_program quirk h, fun i h => ?font,
    fun a noFont outside => ?rest⟩
  case font => rw [created_read_outside quirk (by omega), initialByte_font h]
  case rest => rw [created_read_outside quirk outside, initialByte_outside noFont]

/-- Settles O24: every field but memory and the quirk flag is the one of `State.reset`. -/
theorem creationStartsFromZero : Obligations.CreationStartsFromZero := by
  intro program quirk s h
  obtain ⟨-, rfl⟩ := created_of_create h
  refine ⟨Display.get_blank, rfl, rfl, fun x => ?regs, rfl, fun k => ?stack, rfl, rfl, rfl, rfl, fun k => ?keys, rfl, rfl, rfl, rfl⟩
  all_goals exact Vector.getElem_replicate ..

/-- Settles O25: no key was pressed before the first step, so none has a release edge, and the key wait blocks. -/
theorem firstKeyWaitBlocks : Obligations.FirstKeyWaitBlocks := by
  intro program quirk s x i h hd
  obtain ⟨-, rfl⟩ := created_of_create h
  have noEdge : ¬ ∃ k, ReleaseEdge ((State.created program quirk).supply i) k := by
    rintro ⟨k, before, -⟩
    cases before.symm.trans (Vector.getElem_replicate ..)
  have entry : (0x200 : Word).toNat ≤ 0xFFE := by decide
  have blocked := blockedStepRetries ((State.created program quirk).supply i) (.ldVxK x) rfl entry hd
    (.inr ⟨⟨x, rfl⟩, noEdge⟩)
  exact ⟨_, blocked, rfl, fun _ _ => rfl, fun _ => rfl, rfl, rfl⟩

end Sys2Proof.Machine
end

section
/-!
PROOFS. The family other, memory as data: a canonical memory is determined by its reads (log entry 15).
-/

namespace Sys2Proof.Machine

/-- Below its listed addresses a canonical memory reads as after creation. -/
theorem Memory.read_of_wfAbove {m : Memory} {l a : Nat} (h : Memory.wfAbove (some l) m = true) (ha : a ≤ l) :
    m.read a = initialByte a := by
  induction m generalizing l with
  | nil => rfl
  | cons c m ih =>
    obtain ⟨k, b⟩ := c
    obtain ⟨above, -, -, rest⟩ := (Memory.wfAbove_cons ..).1 h
    have lt : a < k := Nat.lt_of_le_of_lt ha (above l rfl)
    rw [Memory.read, if_neg (Nat.ne_of_lt lt), ih rest (Nat.le_of_lt lt)]

theorem Memory.read_head (k : Nat) (b : Byte) (m : Memory) : Memory.read ((k, b) :: m) k = b := if_pos rfl

/-- A memory that reads as after creation up to `k` lists no address up to `k`, so it does not read alike with one that
lists `k`. -/
theorem Memory.head_not_read_alike {k : Nat} {b : Byte} {m m' : Memory} (hb : b ≠ initialByte k)
    (h : Memory.wfAbove (some k) m' = true) (reads : ∀ a, Memory.read ((k, b) :: m) a = m'.read a) : False :=
  hb (by rw [← Memory.read_head k b m, reads, Memory.read_of_wfAbove h (Nat.le_refl k)])

theorem Memory.ext_read {m m' : Memory} {lo lo' : Option Nat} (h : Memory.wfAbove lo m = true)
    (h' : Memory.wfAbove lo' m' = true) (reads : ∀ a, m.read a = m'.read a) : m = m' := by
  induction m generalizing m' lo lo' with
  | nil =>
    cases m' with
    | nil => rfl
    | cons c' m' =>
      obtain ⟨-, -, hb, -⟩ := (Memory.wfAbove_cons ..).1 h'
      exact (Memory.head_not_read_alike (m' := []) hb rfl fun a => (reads a).symm).elim
  | cons c m ih =>
    obtain ⟨k, b⟩ := c
    obtain ⟨-, hk, hb, rest⟩ := (Memory.wfAbove_cons ..).1 h
    cases m' with
    | nil => exact (Memory.head_not_read_alike (m' := []) hb rfl reads).elim
    | cons c' m' =>
      obtain ⟨k', b'⟩ := c'
      obtain ⟨-, hk', hb', rest'⟩ := (Memory.wfAbove_cons ..).1 h'
      obtain lt | rfl | gt := Nat.lt_trichotomy k k'
      · have above : Memory.wfAbove (some k) ((k', b') :: m') = true :=
          (Memory.wfAbove_cons ..).2 ⟨fun _ e => Option.some.inj e ▸ lt, hk', hb', rest'⟩
        exact (Memory.head_not_read_alike hb above reads).elim
      · have byte : b = b' := by rw [← Memory.read_head k b m, reads, Memory.read_head]
        have tails : ∀ a, Memory.read m a = Memory.read m' a := fun a => by
          obtain gt | le := Nat.lt_or_ge k a
          · have ne := Nat.ne_of_gt gt
            simpa only [Memory.read, if_neg ne] using reads a
          · rw [Memory.read_of_wfAbove rest le, Memory.read_of_wfAbove rest' le]
        rw [byte, ih rest rest' tails]
      · have above : Memory.wfAbove (some k') ((k, b) :: m) = true :=
          (Memory.wfAbove_cons ..).2 ⟨fun _ e => Option.some.inj e ▸ gt, hk, hb, rest⟩
        exact (Memory.head_not_read_alike hb' above fun a => (reads a).symm).elim

/-- Settles O27, by induction on one list: the heads must be the same cell, since each lists a byte that
nothing else accounts for. -/
theorem memoryIsItsReads : Obligations.MemoryIsItsReads :=
  fun _ _ h h' reads => Memory.ext_read h h' reads

end Sys2Proof.Machine
end

section
/-!
PROOFS. The family other, frames: what each instruction leaves unchanged, by cases on the effects.
-/

namespace Sys2Proof.Machine

theorem sameMemoryOutside_writeBytes (s : State) (a : Nat) (bs : List Byte) :
    SameMemoryOutside a bs.length s (s.setMem (s.mem.writeBytes a bs)) :=
  fun _ outside => Memory.read_writeBytes_outside bs s.mem outside

/-- Settles O28: two effects write memory, a run of bytes each; a fatal condition writes none. -/
theorem onlyStoresChangeMemory : Obligations.OnlyStoresChangeMemory := by
  intro i s t h
  cases exec_iff_effect.1 h with
  | ldB => exact sameMemoryOutside_writeBytes s s.index.toNat (bcdDigits _)
  | @storeRegs x =>
    have bytes := sameMemoryOutside_writeBytes s s.index.toNat (s.regsUpTo x)
    rw [State.regsUpTo_length] at bytes
    exact bytes
  | fatal reason =>
    cases reason with
    | ldB | storeRegs => exact fun _ _ => rfl
    | _ => exact fun _ => rfl
  | or | and | xor => intro a; rw [State.setRegLogic_mem]
  | _ => exact fun _ => rfl

theorem Effect.disp {s t : State} {i : Instr} (h : Effect s i t) (noCls : i ≠ .cls) (noDrw : ∀ x y n, i ≠ .drw x y n) :
    t.disp = s.disp := by
  cases h with
  | cls => exact absurd rfl noCls
  | drw => exact absurd rfl (noDrw _ _ _)
  | or | and | xor => exact State.setRegLogic_disp ..
  | _ => rfl

theorem Effect.stack {s t : State} {i : Instr} (h : Effect s i t) (noRet : i ≠ .ret) (noCall : ∀ nnn, i ≠ .call nnn) :
    t.stack = s.stack ∧ t.sp = s.sp := by
  cases h with
  | ret => exact absurd rfl noRet
  | call => exact absurd rfl (noCall _)
  | or | and | xor => exact ⟨State.setRegLogic_stack .., State.setRegLogic_sp ..⟩
  | _ => exact ⟨rfl, rfl⟩

theorem Effect.index {s t : State} {i : Instr} (h : Effect s i t) (noLdI : ∀ nnn, i ≠ .ldI nnn)
    (other : ∀ x, i ≠ .addI x ∧ i ≠ .ldF x ∧ i ≠ .storeRegs x ∧ i ≠ .loadRegs x) : t.index = s.index := by
  cases h with
  | ldI => exact absurd rfl (noLdI _)
  | addI | addIWraps => exact absurd rfl (other _).1
  | ldF => exact absurd rfl (other _).2.1
  | storeRegs => exact absurd rfl (other _).2.2.1
  | loadRegs => exact absurd rfl (other _).2.2.2
  | or | and | xor => exact State.setRegLogic_index ..
  | _ => rfl

theorem Effect.keyPrev {s t : State} {i : Instr} (h : Effect s i t) : t.keyPrev = s.keyPrev := by
  cases h with
  | or | and | xor => exact State.setRegLogic_keyPrev ..
  | _ => rfl

/-- Settles O29: the frames, one per piece of state. -/
theorem eachPieceHasItsWriters : Obligations.EachPieceHasItsWriters := by
  intro i s t h
  have effect := exec_iff_effect.1 h
  exact ⟨effect.disp, effect.stack, effect.index, effect.dt, effect.st, effect.acc, effect.keyPrev, effect.quirk⟩

theorem flagByte_zero_or_one : ∀ c : Bool, flagByte c = 0 ∨ flagByte c = 1
  | true => .inr rfl
  | false => .inl rfl

theorem State.setRegFlag_vf (s : State) (x : Nibble) (b : Byte) (c : Bool) : (s.setRegFlag x b c).reg 0xF = flagByte c := by
  rw [State.setRegFlag_reg, if_pos rfl]

theorem State.setRegLogic_plain {s : State} (q : s.quirk = false) (x : Nibble) (b : Byte) :
    s.setRegLogic x b = s.setReg x b := by
  rw [State.setRegLogic, q]; rfl

/-- A register after Fx65: loaded up to Vx, kept above it. -/
theorem loadFrom_reg (s : State) (m : Memory) (a k : Nat) (r : Nibble) :
    (s.setRegs (loadFrom m a k s.v)).reg r = if r.toNat < k then m.read (a + r.toNat) else s.reg r :=
  loadFrom_getElem m a k s.v r.toNat r.isLt

theorem nibble_lt_F {x : Nibble} (h : x ≠ 0xF) : x.toNat < 15 := by bv_omega

/-- Settles O30: each effect writes VF under the condition of its clause, or not at all. -/
theorem vfHasItsWriters : Obligations.VFHasItsWriters := by
  intro i s t h
  cases exec_iff_effect.1 h with
  | ldImm | addImm | ldReg | rnd | ldVxDT | ldVxK => exact fun hx => s.setReg_reg_other _ (Ne.symm hx)
  | ldVxKBlocked => exact fun _ => rfl
  | or | and | xor =>
    intro q hx
    rw [State.setRegLogic_plain q, State.setReg_reg_other s _ (Ne.symm hx)]
  | addReg | subReg | subn | shr | shl => rw [State.setRegFlag_vf]; exact flagByte_zero_or_one _
  | addI => exact fun _ => rfl
  | addIWraps wraps => exact fun below => absurd below (Nat.not_lt.2 wraps)
  | drwBlocked => exact fun _ => rfl
  | drw render => exact fun wait => nomatch render.symm.trans wait
  | @loadRegs x =>
    intro hx
    have above : ¬ (0xF : Nibble).toNat < x.toNat + 1 := Nat.not_lt.2 (nibble_lt_F hx)
    rw [State.setIndex_reg, loadFrom_reg, if_neg above]
  | fatal reason =>
    cases reason with
    | drw | loadRegs => exact fun _ => rfl
    | _ => rfl
  | _ => rfl

end Sys2Proof.Machine
end

section
/-!
PROOFS. The family other, noninterference: the effects do not see what an instruction does not read.
-/

namespace Sys2Proof.Machine

/-- The state with another quirk flag, sound timer and accumulator. -/
def State.override (s : State) (q : Bool) (b : Byte) (a : BitVec 64) : State := { s with quirk := q, st := b, acc := a }

/-- The instructions whose meaning depends on the quirk flag (10_state R33). -/
def readsQuirk : Instr → Bool
  | .or _ _ | .and _ _ | .xor _ _ | .shr _ _ | .shl _ _ | .storeRegs _ | .loadRegs _ => true
  | _ => false

/-- The sound timer after an instruction that led to `t`, when it held `b` before: Fx18 loads it, nothing else writes it. -/
def soundAfter (i : Instr) (t : State) (b : Byte) : Byte :=
  match i with
  | .ldST _ => t.st
  | _ => b

theorem State.setRegLogic_override (s : State) (x : Nibble) (v : Byte) (b : Byte) (a : BitVec 64) :
    (s.override s.quirk b a).setRegLogic x v = (s.setRegLogic x v).override s.quirk b a := by
  unfold State.setRegLogic
  rw [show (s.override s.quirk b a).quirk = s.quirk from rfl]
  split <;> rfl

theorem Fatal.override {s : State} {i : Instr} {f : Fault} {info : Word} (h : Fatal s i f info) (q : Bool) (b : Byte)
    (a : BitVec 64) : Fatal (s.override q b a) i f info := by
  cases h with
  | call full => exact .call full
  | ret empty => exact .ret empty
  | ldB above => exact .ldB above
  | storeRegs above => exact .storeRegs above
  | loadRegs above => exact .loadRegs above
  | drw render rows above => exact .drw render rows above
  | skp above => exact .skp above
  | sknp above => exact .sknp above

theorem Fatal.soundAfter {s : State} {i : Instr} {f : Fault} {info : Word} (h : Fatal s i f info) (t : State) (b : Byte) :
    soundAfter i t b = b := by
  cases h <;> rfl

/-- An effect is the same from an overridden state, when the instruction does not read the quirk flag or the flag is the same. -/
theorem Effect.override {s t : State} {i : Instr} (h : Effect s i t) {q : Bool} (hq : readsQuirk i = true → q = s.quirk)
    (b : Byte) (a : BitVec 64) : Effect (s.override q b a) i (t.override q (soundAfter i t b) a) := by
  cases h with
  | or => cases hq rfl; exact State.setRegLogic_override .. ▸ .or (s := s.override s.quirk b a)
  | and => cases hq rfl; exact State.setRegLogic_override .. ▸ .and (s := s.override s.quirk b a)
  | xor => cases hq rfl; exact State.setRegLogic_override .. ▸ .xor (s := s.override s.quirk b a)
  | shr => cases hq rfl; exact .shr
  | shl => cases hq rfl; exact .shl
  | storeRegs inMemory => cases hq rfl; exact .storeRegs inMemory
  | loadRegs inMemory => cases hq rfl; exact .loadRegs inMemory
  | ret bound bound' used => exact .ret (s := s.override q b a) bound bound' used
  | call room => exact .call (s := s.override q b a) room
  | drwBlocked wait => exact .drwBlocked wait
  | drw render inMemory => exact .drw render inMemory
  | skp index => exact .skp (s := s.override q b a) index
  | sknp index => exact .sknp (s := s.override q b a) index
  | ldVxKBlocked wait => exact .ldVxKBlocked wait
  | ldVxK pick => exact .ldVxK pick
  | addI below => exact .addI below
  | addIWraps wraps => exact .addIWraps wraps
  | ldB inMemory => exact .ldB inMemory
  | ldST => exact .ldST
  | fatal reason => rw [reason.soundAfter]; exact .fatal (reason.override q b a)
  | _ => constructor

theorem Effect.soundAfter {s t : State} {i : Instr} (h : Effect s i t) : soundAfter i t s.st = t.st := by
  cases i with
  | ldST => rfl
  | _ => exact (h.st nofun).symm

/-- Settles O31: the override with the state's own sound timer and accumulator changes the quirk flag only. -/
theorem quirkChangesOnlySeven : Obligations.QuirkChangesOnlySeven := by
  intro i s t q noAlu noMemory h
  have effect := exec_iff_effect.1 h
  have unread : readsQuirk i = true → q = s.quirk := by
    cases i with
    | or x y => exact absurd rfl (noAlu x y).1
    | and x y => exact absurd rfl (noAlu x y).2.1
    | xor x y => exact absurd rfl (noAlu x y).2.2.1
    | shr x y => exact absurd rfl (noAlu x y).2.2.2.1
    | shl x y => exact absurd rfl (noAlu x y).2.2.2.2
    | storeRegs x => exact absurd rfl (noMemory x).1
    | loadRegs x => exact absurd rfl (noMemory x).2
    | _ => exact nofun
  have same : t.override q (soundAfter i t s.st) s.acc = { t with quirk := q } := by
    rw [effect.soundAfter, ← effect.acc]; rfl
  exact (effect.override unread s.st s.acc).exec.trans (congrArg _ same)

/-- Settles O32: the override with the state's own quirk flag is open to every instruction. -/
theorem soundTimerAndAccumulatorAreNeverRead : Obligations.SoundTimerAndAccumulatorAreNeverRead := by
  intro i s t b a h
  have effect := exec_iff_effect.1 h
  have same : t.override s.quirk (soundAfter i t b) a = { t with st := soundAfter i t b, acc := a } := by
    rw [← effect.quirk]; rfl
  exact (effect.override (fun _ => rfl) b a).exec.trans (congrArg _ same)

end Sys2Proof.Machine
end

section
/-!
PROOFS. The family other, control flow: the computed jump, call and return.
-/

namespace Sys2Proof.Machine

/-- Settles O35: the sum of 12 bits and 8 bits fits `pc`. -/
theorem jumpV0AddsWithoutWrap : Obligations.JumpV0AddsWithoutWrap :=
  fun nnn s => ⟨_, Effect.jpV0.exec, jumpSum_toNat nnn _, onlyPc_jump s _⟩

theorem encode_call (nnn : Addr12) : encode (.call nnn) = BitVec.ofNat 16 (0x2000 + nnn.toNat) := by
  have word : (encode (.call nnn)).toNat = 0x2000 + nnn.toNat := formatNNN_toNat 2 nnn
  rw [← word, BitVec.ofNat_toNat, BitVec.setWidth_eq]

/-- Settles O36: the two effects of a call. -/
theorem callPushesReturnAddress : Obligations.CallPushesReturnAddress := by
  intro nnn s
  constructor
  · intro room
    exact ⟨_, (Effect.call room).exec, addrOperand_toNat nnn, rfl, rfl, rfl⟩
  · intro full
    exact ⟨_, (Fatal.call full).exec, encode_call nnn ▸ s.raise_raised _ _⟩

/-- Settles O37: the two effects of a return. -/
theorem returnPopsNewestEntry : Obligations.ReturnPopsNewestEntry := by
  intro s
  constructor
  · intro bound used
    exact ⟨_, (Effect.ret bound (Nat.lt_succ_of_lt bound) used).exec, rfl, rfl, rfl⟩
  · intro empty
    exact ⟨_, (Fatal.ret empty).exec, s.raise_raised _ _⟩

/-- Settles O38: the return pops the entry that the call pushed. -/
theorem returnUndoesCall : Obligations.ReturnUndoesCall := by
  intro nnn s t u room hcall hret
  obtain ⟨t', ht, -, sp, stack, frame⟩ := (callPushesReturnAddress nnn s).1 room
  cases ht.symm.trans hcall
  have depth : t.advance.sp.val = s.sp.val + 1 := sp
  obtain ⟨u', hu, pc, sp', frame'⟩ := (returnPopsNewestEntry t.advance).1 (by omega) (by omega)
  cases hu.symm.trans hret
  have halted : t.halted = s.halted := by rw [frame]
  refine ⟨pc.trans ?_, Fin.ext (by omega), (congrArg State.halted frame').trans halted⟩
  simp only [State.advance_stack, depth, stack, Nat.add_sub_cancel, Vector.getElem_set_self]

end Sys2Proof.Machine
end

section
/-!
PROOFS. The family other, arithmetic and logic with VF (42_alu sections 3 to 5).
-/

namespace Sys2Proof.Machine

/-- The word of format XY, in the order in which the statement on the logic instructions adds up its digits. -/
theorem formatXYN_toNat_last (op x y n : Nibble) :
    (formatXYN op x y n).toNat = op.toNat * 4096 + 0x100 * x.toNat + 0x10 * y.toNat + n.toNat := by
  rw [formatXYN_toNat]; omega

theorem onlyRegs_setReg_setVF (s : State) (x : Nibble) (b c : Byte) : OnlyRegs [x, 0xF] s ((s.setReg x b).setVF c) :=
  onlyRegs_trans (onlyRegs_setReg s b List.mem_cons_self)
    (onlyRegs_setReg _ c (List.mem_cons_of_mem _ List.mem_cons_self))

/-! ## Logic -/

theorem State.setRegLogic_quirkMode {s : State} (q : s.quirk = true) (x : Nibble) (b : Byte) :
    s.setRegLogic x b = (s.setReg x b).setVF 0 := if_pos q

theorem State.setRegLogic_result {s : State} {x : Nibble} (h : x ≠ 0xF ∨ s.quirk = false) (b : Byte) :
    (s.setRegLogic x b).reg x = b := by
  have kept : ¬ (s.quirk = true ∧ x = 0xF) := fun ⟨q, hx⟩ => h.elim (absurd hx) fun plain => nomatch q.symm.trans plain
  rw [State.setRegLogic_reg, if_neg kept, if_pos rfl]

/-- What the statement says of an instruction that writes a logic result. -/
theorem exec_setRegLogic {s : State} {i : Instr} {x : Nibble} {b : Byte} (h : Effect s i (s.setRegLogic x b)) :
    ∃ t, exec i s = .next t ∧ (x ≠ 0xF ∨ s.quirk = false → t.reg x = b) ∧
      (s.quirk = true → t.reg 0xF = 0 ∧ OnlyRegs [x, 0xF] s t) ∧ (s.quirk = false → OnlyRegs [x] s t) := by
  refine ⟨_, h.exec, fun kept => State.setRegLogic_result kept b, fun q => ?_, fun q => ?_⟩
  · rw [State.setRegLogic_quirkMode q]
    exact ⟨State.setReg_reg_same .., onlyRegs_setReg_setVF s x b 0⟩
  · rw [State.setRegLogic_plain q]
    exact onlyRegs_setReg_self s x b

/-- Settles O41: three instructions that write a logic result, each with the bits of its operation. -/
theorem logicIsBitwiseThenQuirkClearsVF : Obligations.LogicIsBitwiseThenQuirkClearsVF := by
  rintro x y s op n i (⟨rfl, rfl, rfl⟩ | ⟨rfl, rfl, rfl⟩ | ⟨rfl, rfl, rfl⟩)
  · obtain ⟨t, ht, result, frames⟩ := exec_setRegLogic (Effect.or (s := s) (x := x) (y := y))
    refine ⟨encodes_of_toNat (formatXYN_toNat_last 8 x y 1), t, ht, fun kept b _ => ?_, frames⟩
    rw [result kept, BitVec.getLsbD_or]
  · obtain ⟨t, ht, result, frames⟩ := exec_setRegLogic (Effect.and (s := s) (x := x) (y := y))
    refine ⟨encodes_of_toNat (formatXYN_toNat_last 8 x y 2), t, ht, fun kept b _ => ?_, frames⟩
    rw [result kept, BitVec.getLsbD_and]
  · obtain ⟨t, ht, result, frames⟩ := exec_setRegLogic (Effect.xor (s := s) (x := x) (y := y))
    refine ⟨encodes_of_toNat (formatXYN_toNat_last 8 x y 3), t, ht, fun kept b _ => ?_, frames⟩
    rw [result kept, BitVec.getLsbD_xor]

/-! ## Results with a flag -/

/-- What the statements say of an instruction that writes a result and a flag. -/
theorem exec_setRegFlag {s : State} {i : Instr} {x : Nibble} {b : Byte} {c : Bool} (h : Effect s i (s.setRegFlag x b c)) :
    ∃ t, exec i s = .next t ∧ (x ≠ 0xF → t.reg x = b) ∧ t.reg 0xF = flagByte c ∧ OnlyRegs [x, 0xF] s t := by
  refine ⟨_, h.exec, fun hx => ?_, s.setRegFlag_vf x b c, onlyRegs_setReg_setVF s x b _⟩
  rw [State.setRegFlag_reg, if_neg hx, if_pos rfl]

theorem flagByte_addCarry (a b : Byte) : flagByte (addCarry a b) = if a.toNat + b.toNat > 255 then 1 else 0 := by
  simp only [flagByte, addCarry, decide_eq_true_eq]

/-- Settles O42: the exact sum, narrowed for Vx and compared for VF. -/
theorem addWrapsAndCarries : Obligations.AddWrapsAndCarries := by
  intro x y s
  obtain ⟨t, ht, result, flag, frame⟩ := exec_setRegFlag (Effect.addReg (s := s) (x := x) (y := y))
  exact ⟨t, ht, fun hx => by rw [result hx, addResult_toNat], flag.trans (flagByte_addCarry _ _), frame⟩

theorem subResult_toInt (m t : Byte) : ((subResult m t).toNat : Int) = (m.toNat - t.toNat : Int) % 256 := by
  rw [subResult, BitVec.toNat_ofNat]; omega

theorem flagByte_subNoBorrow (m t : Byte) : flagByte (subNoBorrow m t) = if m.toNat < t.toNat then 0 else 1 := by
  by_cases h : m.toNat < t.toNat <;> simp [flagByte, subNoBorrow, h]

/-- A subtraction, whichever operand is the minuend. -/
theorem exec_subtraction {s : State} {i : Instr} {x : Nibble} {m t : Byte}
    (h : Effect s i (s.setRegFlag x (subResult m t) (subNoBorrow m t))) :
    ∃ u, exec i s = .next u ∧ (x ≠ 0xF → ((u.reg x).toNat : Int) = (m.toNat - t.toNat : Int) % 256) ∧
      u.reg 0xF = (if m.toNat < t.toNat then 0 else 1) ∧ OnlyRegs [x, 0xF] s u := by
  obtain ⟨u, hu, result, flag, frame⟩ := exec_setRegFlag h
  exact ⟨u, hu, fun hx => by rw [result hx, subResult_toInt], flag.trans (flagByte_subNoBorrow m t), frame⟩

/-- Settles O43: the two subtractions. -/
theorem subtractsWrapAndBorrow : Obligations.SubtractsWrapAndBorrow :=
  fun _ _ _ => ⟨exec_subtraction .subReg, exec_subtraction .subn⟩

theorem flagByte_toNat : ∀ c : Bool, (flagByte c).toNat = c.toNat
  | true => rfl
  | false => rfl

theorem flagByte_shrOut (a : Byte) : (flagByte (shrOut a)).toNat = a.toNat % 2 := by
  have bit : (shrOut a).toNat = a.toNat / 2 ^ 0 % 2 := Nat.toNat_testBit ..
  rw [flagByte_toNat, bit, Nat.pow_zero, Nat.div_one]

theorem flagByte_shlOut (a : Byte) : (flagByte (shlOut a)).toNat = a.toNat / 128 := by
  have bit : (shlOut a).toNat = a.toNat / 2 ^ 7 % 2 := Nat.toNat_testBit ..
  rw [flagByte_toNat, bit]
  omega

/-- Settles O44: both shifts work on the shift source, which the quirk flag picks. -/
theorem shiftsMoveOneBit : Obligations.ShiftsMoveOneBit := by
  intro x y s v hv
  have source : s.shiftSource x y = v := hv.symm
  obtain ⟨t, ht, result, flag, frame⟩ := exec_setRegFlag (Effect.shr (s := s) (x := x) (y := y))
  obtain ⟨u, hu, result', flag', frame'⟩ := exec_setRegFlag (Effect.shl (s := s) (x := x) (y := y))
  rw [source] at result flag result' flag'
  exact ⟨⟨t, ht, fun hx => by rw [result hx, shrResult_toNat], by rw [flag, flagByte_shrOut], frame⟩,
    ⟨u, hu, fun hx => by rw [result' hx, shlResult_toNat], by rw [flag', flagByte_shlOut], frame'⟩⟩

end Sys2Proof.Machine
end

section
/-!
PROOFS. The family other, the index register and memory (43_index_memory).
-/

namespace Sys2Proof.Machine

/-! ## The index register -/

theorem indexOfNat_toNat (n : Nat) : (indexOfNat n).toNat = n % 4096 := by
  rw [indexOfNat, BitVec.toNat_ofNat]; omega

theorem onlyIndexAndRegs_setIndex_setVF (s : State) (a : Word) (b : Byte) :
    OnlyIndexAndRegs [0xF] s ((s.setIndex a).setVF b) :=
  ⟨fun _ hr => (State.setReg_reg_other _ b fun e => hr (List.mem_singleton.2 e)).trans (s.setIndex_reg a _), rfl, fun _ => rfl,
    ⟨rfl, rfl, rfl, rfl, rfl, rfl, rfl, rfl, rfl, rfl⟩, ⟨rfl, rfl, rfl, rfl⟩⟩

/-- Settles O47: the two effects of Fx1E. -/
theorem addIndexWrapsAtTwelveBits : Obligations.AddIndexWrapsAtTwelveBits := by
  intro x s
  constructor
  · intro below
    refine ⟨_, (Effect.addI below).exec, ?_, onlyIndexAndRegs_setIndex s _⟩
    rw [State.setIndex_index, BitVec.toNat_ofNat]
    omega
  · intro wraps
    exact ⟨_, (Effect.addIWraps wraps).exec, indexOfNat_toNat _, State.setReg_reg_same ..,
      onlyIndexAndRegs_setIndex_setVF s _ 1⟩

/-- Settles O48: the product of 5 and a byte fits the index register. -/
theorem glyphAddressUsesWholeVx : Obligations.GlyphAddressUsesWholeVx :=
  fun _ s => ⟨_, Effect.ldF.exec, glyphAddr_toNat _, onlyIndexAndRegs_setIndex s _⟩

/-- I after Fx55 and Fx65, as the statements write it. -/
theorem State.nextIndex_toNat (s : State) (x : Nibble) : (s.nextIndex (x.toNat + 1)).toNat =
    if s.quirk = true then (s.index.toNat + x.toNat + 1) % 4096 else s.index.toNat := by
  unfold State.nextIndex
  split
  · exact indexOfNat_toNat _
  · rfl

/-! ## Stores and loads -/

/-- A decimal digit is a byte. -/
theorem toNat_ofNat_digit {n : Nat} (h : n < 10) : (BitVec.ofNat 8 n).toNat = n := by
  rw [BitVec.toNat_ofNat]; omega

/-- Settles O49: the three bytes written are the three digits. -/
theorem bcdWritesThreeDigits : Obligations.BcdWritesThreeDigits := by
  intro x s inMemory
  have read (k : Nat) (hk : k < 3) : (s.mem.writeBytes s.index.toNat (bcdDigits (s.reg x))).read (s.index.toNat + k) =
      (bcdDigits (s.reg x))[k] := Memory.read_writeBytes_add _ _ _
  have frame := sameMemoryOutside_writeBytes s s.index.toNat (bcdDigits (s.reg x))
  refine ⟨_, (Effect.ldB inMemory).exec, ?hundreds, ?tens, ?units, frame, rfl⟩
  case hundreds => exact (congrArg BitVec.toNat (read 0 (by decide))).trans (toNat_ofNat_digit (by omega))
  case tens => exact (congrArg BitVec.toNat (read 1 (by decide))).trans (toNat_ofNat_digit (by omega))
  case units => exact (congrArg BitVec.toNat (read 2 (by decide))).trans (toNat_ofNat_digit (by omega))

theorem read_storeRegs (s : State) {x r : Nibble} (h : r.toNat ≤ x.toNat) :
    (s.mem.writeBytes s.index.toNat (s.regsUpTo x)).read (s.index.toNat + r.toNat) = s.reg r := by
  have bound : r.toNat < (s.regsUpTo x).length := by rw [State.regsUpTo_length]; exact Nat.lt_succ_of_le h
  rw [Memory.read_writeBytes_add _ _ bound, State.regsUpTo_getElem, BitVec.ofNat_toNat, BitVec.setWidth_eq]

/-- Settles O50: the bytes written are V0 to Vx in order. -/
theorem storeRegistersWritesInOrder : Obligations.StoreRegistersWritesInOrder := by
  intro x s inMemory
  have frame := sameMemoryOutside_writeBytes s s.index.toNat (s.regsUpTo x)
  rw [State.regsUpTo_length] at frame
  exact ⟨_, (Effect.storeRegs inMemory).exec, fun r h => read_storeRegs s h, frame, s.nextIndex_toNat x, rfl⟩

/-- Settles O51: registers up to Vx are loaded, registers above are kept. -/
theorem loadRegistersReadsInOrder : Obligations.LoadRegistersReadsInOrder := by
  intro x s inMemory
  refine ⟨_, (Effect.loadRegs inMemory).exec, fun r h => ?loaded, fun r h => ?kept, fun _ => rfl, s.nextIndex_toNat x, rfl⟩
  case loaded => rw [State.setIndex_reg, loadFrom_reg, if_pos (Nat.lt_succ_of_le h)]
  case kept => rw [State.setIndex_reg, loadFrom_reg, if_neg (Nat.not_lt.2 h)]

/-- Settles O52: the load reads the addresses that the store wrote. -/
theorem loadInvertsStore : Obligations.LoadInvertsStore := by
  intro x s t u v inMemory hstore hload r h
  obtain ⟨t', ht, stored, -⟩ := storeRegistersWritesInOrder x s inMemory
  cases ht.symm.trans hstore
  obtain ⟨u', hu, loaded, -⟩ := loadRegistersReadsInOrder x { t with v := v, index := s.index } inMemory
  cases hu.symm.trans hload
  exact (loaded r h).trans (stored r h)

/-- Settles O53: the two bytes that the fetch reads are two bytes that the store wrote. -/
theorem storedWordIsFetched : Obligations.StoredWordIsFetched := by
  intro x r r' s t inMemory h h' next hstore
  obtain ⟨t', ht, stored, -⟩ := storeRegistersWritesInOrder x s inMemory
  cases ht.symm.trans hstore
  have pc : (BitVec.ofNat 16 (s.index.toNat + r.toNat)).toNat = s.index.toNat + r.toNat := by
    rw [BitVec.toNat_ofNat]; omega
  have low : t.mem.read (s.index.toNat + r.toNat + 1) = s.reg r' := by
    rw [← stored r' h', next]; rfl
  rw [fetch_eq_some (Nat.le_trans (Nat.le_of_eq pc) (by omega)), readWord]
  dsimp only
  rw [pc, stored r h, low]

/-- Settles O54: the fatal conditions with cause DataAddressOutOfBounds. -/
theorem dataAccessAboveMemoryRaises : Obligations.DataAccessAboveMemoryRaises := by
  rintro i s h above (⟨x, rfl, rfl⟩ | ⟨x, rfl | rfl, rfl⟩ | ⟨x, y, n, rfl, render, operand, rfl⟩)
  · exact ⟨_, (Fatal.ldB above).exec, s.raise_raised _ _⟩
  · exact ⟨_, (Fatal.storeRegs above).exec, s.raise_raised _ _⟩
  · exact ⟨_, (Fatal.loadRegs above).exec, s.raise_raised _ _⟩
  · have rows := (State.spriteRows_pos (s := s) (y := y)).2 operand
    rw [← State.lastRow_eq rows] at above ⊢
    exact ⟨_, (Fatal.drw render rows above).exec, s.raise_raised _ _⟩

end Sys2Proof.Machine
end

section
/-!
PROOFS. The family other, the sprite draw (44_display section 2).
-/

namespace Sys2Proof.Machine

/-- The rows drawn lie in the display. -/
theorem State.originRow_add_spriteRows (s : State) (y n : Nibble) : s.originRow y + s.spriteRows y n ≤ 32 := by
  have row : s.originRow y < 32 := Nat.mod_lt _ (by decide)
  unfold State.spriteRows
  omega

/-- Inside the display the clipped sprite covers what the unclipped sprite covers. -/
theorem spriteBit_iff (s : State) (x y n : Nibble) {r c : Nat} (hr : r < 32) (hc : c < 64) :
    (s.originRow y ≤ r ∧ r < s.originRow y + s.spriteRows y n ∧ s.originCol x ≤ c ∧ c < s.originCol x + 8 ∧ c ≤ 63 ∧
      (s.mem.read (s.dataAddr 0 + (r - s.originRow y))).getLsbD (7 - (c - s.originCol x)) = true) ↔
    SpriteBit s (if x = 0xF then 0 else (s.reg x).toNat) (if y = 0xF then 0 else (s.reg y).toNat) n.toNat r c := by
  have rows : r < s.originRow y + s.spriteRows y n ↔ r < s.originRow y + n.toNat := by
    unfold State.spriteRows
    omega
  have column : c ≤ 63 := Nat.le_of_lt_succ hc
  rw [SpriteBit, ← State.originRow_eq, ← State.originCol_eq, rows]
  exact and_congr_right fun _ => and_congr_right fun _ => and_congr_right fun _ => and_congr_right fun _ =>
    and_iff_right column

theorem xor_decide_iff (a : Bool) (p : Prop) [Decidable p] : (a ^^ decide p) = true ↔ ¬ (a = true ↔ p) := by
  cases a <;> simp

/-- Settles O56: the draw exchanges the pixels that the clipped sprite covers, and a covered set pixel is a hit. -/
theorem drawIsXorWithClipping : Obligations.DrawIsXorWithClipping := by
  intro x y n s render vx vy bound
  have inMemory : s.spriteRows y n = 0 ∨ s.index.toNat + (s.spriteRows y n - 1) ≤ 0xFFF := by
    obtain noRows | rows := Nat.eq_zero_or_pos (s.spriteRows y n)
    · exact .inl noRows
    · have operand := State.spriteRows_pos.1 rows
      rw [State.lastRow_eq rows]
      exact .inr (bound.resolve_left (Nat.ne_of_gt operand))
  obtain ⟨pixels, hit⟩ := drawRows_spec s.mem (s.dataAddr 0) (s.originRow y) (s.originCol x) (s.spriteRows y n)
    (s.originRow_add_spriteRows y n) ⟨s.disp, false⟩
  have collision : (s.sprite x y n).hit = true ↔
      ∃ r c, r < 32 ∧ c < 64 ∧ s.pixel r c = true ∧ SpriteBit s vx vy n.toNat r c := by
    refine hit.trans ⟨?_, ?_⟩
    · rintro (before | ⟨r, c, top, bottom, left, right, column, bit, set⟩)
      · cases before
      · have hr : r < 32 := Nat.lt_of_lt_of_le bottom (s.originRow_add_spriteRows y n)
        have hc : c < 64 := Nat.lt_succ_of_le column
        exact ⟨r, c, hr, hc, set, (spriteBit_iff s x y n hr hc).1 ⟨top, bottom, left, right, column, bit⟩⟩
    · rintro ⟨r, c, hr, hc, set, covered⟩
      obtain ⟨top, bottom, left, right, column, bit⟩ := (spriteBit_iff s x y n hr hc).2 covered
      exact .inr ⟨r, c, top, bottom, left, right, column, bit, set⟩
  have flag : (s.show (s.sprite x y n)).reg 0xF = flagByte (s.sprite x y n).hit := by rw [State.show_reg, if_pos rfl]
  refine ⟨_, (Effect.drw render inMemory).exec, fun r c hr hc => ?pixels, fun met => ?one, fun unmet => ?zero, fun r hr => ?frame,
    fun _ => rfl, rfl⟩
  case pixels =>
    have pixel : (s.show (s.sprite x y n)).pixel r c = (s.pixel r c ^^ decide _) := pixels r c
    rw [pixel, xor_decide_iff, spriteBit_iff s x y n hr hc]
  case one => rw [flag, collision.2 met]; rfl
  case zero => rw [flag, eq_false_of_ne_true (mt collision.1 unmet)]; rfl
  case frame => rw [State.show_reg, if_neg (mt List.mem_singleton.2 hr)]

/-! ## Drawing twice -/

theorem drawRows_twice (m : Memory) (base y0 x0 k : Nat) (hk : y0 + k ≤ 32) (d : Canvas) :
    (drawRows m base y0 x0 k ⟨(drawRows m base y0 x0 k d).disp, false⟩).disp = d.disp := by
  apply Display.ext_get
  intro r c _ _
  rw [(drawRows_spec m base y0 x0 k hk _).1, (drawRows_spec m base y0 x0 k hk d).1, Bool.xor_assoc, Bool.xor_self,
    Bool.xor_false]

/-- A draw writes VF only, and a coordinate that is VF reads 0, so the coordinates stay. -/
theorem State.show_coord (s : State) (d : Canvas) (x : Nibble) : (s.show d).coord x = s.coord x := by
  unfold State.coord
  split
  · rfl
  · next other => rw [State.show_reg, if_neg other]

theorem State.show_originRow (s : State) (d : Canvas) (y : Nibble) : (s.show d).originRow y = s.originRow y := by
  rw [State.originRow, State.show_coord]; rfl

theorem State.show_originCol (s : State) (d : Canvas) (x : Nibble) : (s.show d).originCol x = s.originCol x := by
  rw [State.originCol, State.show_coord]; rfl

theorem State.show_spriteRows (s : State) (d : Canvas) (y n : Nibble) : (s.show d).spriteRows y n = s.spriteRows y n := by
  rw [State.spriteRows, State.show_originRow]; rfl

theorem State.show_sprite (s : State) (d : Canvas) (x y n : Nibble) : (s.show d).sprite x y n =
    drawRows s.mem (s.dataAddr 0) (s.originRow y) (s.originCol x) (s.spriteRows y n) ⟨d.disp, false⟩ := by
  rw [State.sprite, State.show_originRow, State.show_originCol, State.show_spriteRows]; rfl

/-- Settles O57: a draw that leaves the display alone does so again, and a second draw exchanges the same pixels. -/
theorem drawTwiceRestoresDisplay : Obligations.DrawTwiceRestoresDisplay := by
  intro x y n s t u ht hu
  cases exec_iff_effect.1 ht with
  | drwBlocked wait =>
    cases exec_iff_effect.1 hu with
    | drwBlocked | fatal => rfl
    | drw render => cases wait.symm.trans render
  | drw render inMemory =>
    cases exec_iff_effect.1 hu with
    | drwBlocked wait => cases wait.symm.trans render
    | drw =>
      show ((s.show _).sprite x y n).disp = s.disp
      rw [State.show_sprite]
      exact drawRows_twice _ _ _ _ _ (s.originRow_add_spriteRows y n) ⟨s.disp, false⟩
    | fatal reason =>
      cases reason with
      | drw _ rows above =>
        rw [State.show_spriteRows] at rows above
        exact (inMemory.elim (Nat.ne_of_gt rows) (Nat.not_le.2 above)).elim
  | fatal reason =>
    cases exec_iff_effect.1 hu with
    | drwBlocked | fatal => rfl
    | drw _ inMemory =>
      cases reason with
      | drw _ rows above => exact (inMemory.elim (Nat.ne_of_gt rows) (Nat.not_le.2 above)).elim

end Sys2Proof.Machine
end

section
/-!
PROOFS. The family other, keypad and timer instructions (45_keypad_timer).
-/

namespace Sys2Proof.Machine

theorem State.skipTarget_not (s : State) : ∀ c : Bool, s.skipTarget (!c) = if c = true then s.pc else s.pc + 2
  | true => rfl
  | false => rfl

/-- Settles O58: the two effects of each key skip. -/
theorem keySkipsTestCurrentSnapshot : Obligations.KeySkipsTestCurrentSnapshot := by
  intro x s
  constructor
  · intro index
    exact ⟨⟨_, (Effect.skp index).exec, rfl, onlyPc_jump s _⟩,
      ⟨_, (Effect.sknp index).exec, s.skipTarget_not _, onlyPc_jump s _⟩⟩
  · intro above
    rw [BitVec.ofNat_toNat]
    exact ⟨⟨_, (Fatal.skp above).exec, s.raise_raised _ _⟩, ⟨_, (Fatal.sknp above).exec, s.raise_raised _ _⟩⟩

theorem keyByte_toNat (k : Fin 16) : (BitVec.ofNat 8 k.val).toNat = k.val := by
  rw [BitVec.toNat_ofNat]; omega

/-- Settles O59: the pick is a released key, and there is one exactly when some key has a release edge. -/
theorem keyWaitTakesAReleaseEdge : Obligations.KeyWaitTakesAReleaseEdge := by
  intro x s
  constructor
  · intro edge
    cases pick : keyPick s.released with
    | none => exact absurd edge (keyPick_released_none.1 pick)
    | some k =>
      refine ⟨_, (Effect.ldVxK pick).exec, ⟨k, releaseEdge_of_keyPick pick, ?_⟩, onlyRegs_setReg_self s x _⟩
      rw [State.setReg_reg_same, keyByte_toNat]
  · intro noEdge
    exact ⟨_, (Effect.ldVxKBlocked (keyPick_released_none.2 noEdge)).exec, rfl, onlyPc_jump s _⟩

/-- Settles O60: each meaning is one write. -/
theorem timerInstructionsMoveTimers : Obligations.TimerInstructionsMoveTimers := by
  intro x s
  exact ⟨⟨_, Effect.ldVxDT.exec, State.setReg_reg_same .., onlyRegs_setReg_self s x _⟩,
    ⟨_, Effect.ldDT.exec, rfl, fun _ => rfl, rfl⟩, ⟨_, Effect.ldST.exec, rfl, fun _ => rfl, rfl⟩⟩

end Sys2Proof.Machine
end
